-- ==== Sys2Proof/Word.lean ====
section
/-! DEFINITION. The word types of the unit: bytes, 32-bit register words, 128-bit block registers and
byte strings (spec/00_scope.md rules R7, R8, R9). -/

namespace Sys2Proof

/-- A byte, an integer 0 to 255 (R9). -/
abbrev Byte := BitVec 8

/-- A word of the register space and a command word: 32 bits (R7, R111). -/
abbrev Word := BitVec 32

/-- A block register: 128 bits, bit 127 most significant (R7, R11). -/
abbrev Block := BitVec 128

/-- A byte string, first byte first (R9). -/
abbrev Bytes := List Byte

end Sys2Proof
end

