-- ==== Sys2Proof/Config.lean ====
section
/-! DEFINITION. What the surrounding system fixes for the unit: the keyed codebooks and the random
source, as ONE uninterpreted constant (R7, R14, R60, R64), and the fixed constants of the spec. The
port SIGNALS (block sizes, key verdicts, key lengths, queue capacities) are plain data and stand in
State.ports, where no step changes them. -/

namespace Sys2Proof

/-- The unit's environment (R7, R14, R60, R64; log entries 2 and 3).

`e1`, `d1` and `e2` are the pure functions of the codebook ports CB1 and CB2. The unit calls them with
blocks of exactly BS1 (or BS2) bytes only, so giving them a meaning on strings of every length loses
nothing: an actual codebook is extended by the identity. No law is assumed but that a codebook keeps the
length of its block and that `d1` and `e1` undo each other (R7, D14).

`rnd n` is the byte that the random source delivers on its n-th draw: a free value under no law (R64). -/
structure Environment where
  /-- CB1 encrypt, `E1`. -/
  e1 : Bytes → Bytes := fun x => x
  /-- CB1 decrypt, `D1`. -/
  d1 : Bytes → Bytes := fun x => x
  /-- CB2 encrypt, `E2`. -/
  e2 : Bytes → Bytes := fun x => x
  /-- The byte of the n-th draw from RND. -/
  rnd : Nat → Byte := fun _ => 0
  /-- A call returns a block of the same size (R14). -/
  e1_length : ∀ x, (e1 x).length = x.length := by intro x; rfl
  /-- A call returns a block of the same size (R14). -/
  e2_length : ∀ x, (e2 x).length = x.length := by intro x; rfl
  /-- `D1(E1(x)) = x` (R7). -/
  d1_e1 : ∀ x, d1 (e1 x) = x := by intro x; rfl
  /-- `E1(D1(x)) = x` (R7). -/
  e1_d1 : ∀ x, e1 (d1 x) = x := by intro x; rfl
  deriving Inhabited

/-- The environment of the modelled unit: uninterpreted, so that a claim holds for every codebook and for
every byte the random source delivers. -/
opaque Config.env : Environment

/-- The value of the ID register: the letters "CP", major version 1, minor version 0 (R40). -/
def Config.idValue : Word := 0x43500100#32

/-- The reset value of XTSMAX, 128 * 2^20 (R46). -/
def Config.xtsMaxReset : Word := 0x08000000#32

/-- The block size of CB1 in the reference configuration (R7). `decodeTableWord`, which is given no
state, decodes for this configuration (log entry 4). -/
def Config.referenceBs1 : Nat := 16

end Sys2Proof
end

