-- ==== Sys2Proof/Syntax.lean ====
section
/-! DEFINITION. The command set, whole: one constructor for each row of spec/opcode_table.json (R111 to
R117), and the tags that command fields select. -/

namespace Sys2Proof

/-- The session modes, in the order of the document's mode enumeration (R52). -/
inductive Mode where
  /-- No session. -/
  | none
  | ecb
  | cbc
  | cfb
  | ofb
  | ctr
  | xts
  | cmac
  deriving DecidableEq, Repr

/-- The padding schemes of FINAL, in the document's order (R122). -/
inductive PadScheme where
  | bitPadding
  | zerosPadding
  | pkcs7
  | ansiX923
  | iso10126
  deriving DecidableEq, Repr

/-- The commands (R113). A field that selects a row of spec/opcode_table.json (MODE, PAD, W) is in the
constructor's name; the CFB segment size SEG is the one operand a command word carries (R115). -/
inductive Instr where
  | nop
  | initEcb
  | initCbc
  /-- `seg` is the 5-bit SEG field: the segment size in bytes, 0 for the full block (R115, R184). -/
  | initCfb (seg : BitVec 5)
  | initOfb
  | initCtr
  | initXts
  | initCmac
  | enc
  | dec
  | finalBitPadding
  | finalZerosPadding
  | finalPkcs7
  | finalAnsiX923
  | finalIso10126
  | flushi
  | flusho
  | clrerr
  | reset
  | gfmul
  | gfpow2
  | gfdbl
  | gfdbl64
  deriving DecidableEq, Repr

end Sys2Proof
end

