-- ==== Sys2Proof/WellFormed.lean ====
section
/-! DEFINITION. Which terms of Instr are legal commands. -/

namespace Sys2Proof

/-- A command is well formed for a unit whose CB1 has `bs1`-byte blocks. The one operand of the command
set is the CFB segment size, and it may not be longer than a block (R120). -/
def wellFormed (bs1 : Nat) : Instr → Bool
  | .initCfb seg => seg.toNat ≤ bs1
  | .nop | .initEcb | .initCbc | .initOfb | .initCtr | .initXts | .initCmac => true
  | .enc | .dec => true
  | .finalBitPadding | .finalZerosPadding | .finalPkcs7 | .finalAnsiX923 | .finalIso10126 => true
  | .flushi | .flusho | .clrerr | .reset => true
  | .gfmul | .gfpow2 | .gfdbl | .gfdbl64 => true

end Sys2Proof
end

