-- ==== Sys2Proof/Decode.lean ====
section
/-! DEFINITION. The decoder (R126), total on 32-bit words and rejecting by name, and the encoder
(R111, R113, R115 to R117). -/

namespace Sys2Proof

/-- Why a word is not a command. Every reason raises IllegalCommand (R118 to R120). -/
inductive Reject where
  /-- OPC is 0x09 to 0x0F or 0x13 to 0xFF (R119). -/
  | reservedOpcode
  /-- A bit that the command's format shows as 0 is set (R118). -/
  | reservedBits
  /-- INIT with MODE 0 or 8 to 15 (R120). -/
  | reservedMode
  /-- INIT with MODE other than CFB and SEG other than 0 (R118, R120). -/
  | segOutsideCfb
  /-- INIT CFB with SEG greater than BS1 (R120). -/
  | segTooLong
  /-- FINAL with PAD 5, 6 or 7 (R120). -/
  | reservedPad
  deriving DecidableEq, Repr

/-- What a word decodes to: exactly one command, or Illegal with its reason (R126). -/
inductive Decoded where
  | command (i : Instr)
  | illegal (r : Reject)
  deriving DecidableEq, Repr

/-- The command of a decoded word, if it is one. -/
def Decoded.toOption : Decoded → Option Instr
  | .command i => some i
  | .illegal _ => Option.none

/-- Format N: no operand, bits 31:8 are 0 (R111, R114). -/
def decodeN (w : Word) (i : Instr) : Decoded :=
  if w.extractLsb' 8 24 = 0 then .command i else .illegal .reservedBits

/-- An INIT of a mode other than CFB: its SEG field is 0 (R120). -/
def decodeNoSeg (seg : BitVec 5) (i : Instr) : Decoded :=
  if seg = 0 then .command i else .illegal .segOutsideCfb

/-- Format M: MODE is bits 11:8, SEG is bits 20:16 (R111, R115, R120). -/
def decodeM (bs1 : Nat) (w : Word) : Decoded :=
  if w.extractLsb' 21 11 ≠ 0 ∨ w.extractLsb' 12 4 ≠ 0 then .illegal .reservedBits
  else
    let seg := w.extractLsb' 16 5
    match (w.extractLsb' 8 4).toNat with
    | 1 => decodeNoSeg seg .initEcb
    | 2 => decodeNoSeg seg .initCbc
    | 3 => if bs1 < seg.toNat then .illegal .segTooLong else .command (.initCfb seg)
    | 4 => decodeNoSeg seg .initOfb
    | 5 => decodeNoSeg seg .initCtr
    | 6 => decodeNoSeg seg .initXts
    | 7 => decodeNoSeg seg .initCmac
    | _ => .illegal .reservedMode

/-- Format P: PAD is bits 10:8 (R111, R116, R122). -/
def decodeP (w : Word) : Decoded :=
  if w.extractLsb' 11 21 ≠ 0 then .illegal .reservedBits
  else
    match (w.extractLsb' 8 3).toNat with
    | 0 => .command .finalBitPadding
    | 1 => .command .finalZerosPadding
    | 2 => .command .finalPkcs7
    | 3 => .command .finalAnsiX923
    | 4 => .command .finalIso10126
    | _ => .illegal .reservedPad

/-- Format G: W is bit 8 (R111, R117). -/
def decodeG (w : Word) : Decoded :=
  if w.extractLsb' 9 23 ≠ 0 then .illegal .reservedBits
  else if w.getLsbD 8 then .command .gfdbl64
  else .command .gfdbl

/-- The decoder (R126). It reads one parameter, the block size BS1 of port CB1, and no state. -/
def decode (bs1 : Nat) (w : Word) : Decoded :=
  match (w.extractLsb' 0 8).toNat with
  | 0x00 => decodeN w .nop
  | 0x01 => decodeM bs1 w
  | 0x02 => decodeN w .enc
  | 0x03 => decodeN w .dec
  | 0x04 => decodeP w
  | 0x05 => decodeN w .flushi
  | 0x06 => decodeN w .flusho
  | 0x07 => decodeN w .clrerr
  | 0x08 => decodeN w .reset
  | 0x10 => decodeN w .gfmul
  | 0x11 => decodeN w .gfpow2
  | 0x12 => decodeG w
  | _ => .illegal .reservedOpcode

/-- The command word of a command (R111, R113, R115 to R117; the words of spec/opcode_table.json). -/
def encode : Instr → Word
  | .nop => 0x00000000#32
  | .initEcb => 0x00000101#32
  | .initCbc => 0x00000201#32
  | .initCfb seg => 0x00000301#32 ||| (seg.setWidth 32 <<< 16)
  | .initOfb => 0x00000401#32
  | .initCtr => 0x00000501#32
  | .initXts => 0x00000601#32
  | .initCmac => 0x00000701#32
  | .enc => 0x00000002#32
  | .dec => 0x00000003#32
  | .finalBitPadding => 0x00000004#32
  | .finalZerosPadding => 0x00000104#32
  | .finalPkcs7 => 0x00000204#32
  | .finalAnsiX923 => 0x00000304#32
  | .finalIso10126 => 0x00000404#32
  | .flushi => 0x00000005#32
  | .flusho => 0x00000006#32
  | .clrerr => 0x00000007#32
  | .reset => 0x00000008#32
  | .gfmul => 0x00000010#32
  | .gfpow2 => 0x00000011#32
  | .gfdbl => 0x00000012#32
  | .gfdbl64 => 0x00000112#32

/-- The command that the decoder reads from the low `nbits` bits of `w`, every bit above them 0. A command
is one 32-bit word (R111), written whole to CMD, so no order of bytes or words arises. No state is at
hand, so the block size BS1 that the decoder reads is the reference configuration's (log entry 4). -/
def decodeTableWord (nbits w : Nat) : Option Instr :=
  (decode Config.referenceBs1 (BitVec.ofNat 32 (w % 2 ^ nbits))).toOption

end Sys2Proof
end

