-- ==== Sys2Proof/Machine/State.lean ====
section
/-! DEFINITION. The state of the unit (spec/10_state.md R21, R66), the reasons a step can stop, and the
state after reset. -/

namespace Sys2Proof.Machine

/-- The direction of a session (R53). STATUS.DIR = 3 cannot be written in this type. -/
inductive Direction where
  | unset
  | encrypting
  | decrypting
  deriving DecidableEq, Repr

/-- The error kinds, codes 1 to 10 of R330 in that order; code 0 is "no error". -/
inductive ErrorKind where
  | invalidKeyLength
  | missingParameter
  | invalidIVLength
  | unsupportedBlockSize
  | inputTooShort
  | inputTooLong
  | directionConflict
  /-- Allocated, and never latched by the unit: only the host-side unpad functions fail with it (R332). -/
  | paddingError
  | illegalCommand
  | bufferOverflow
  deriving DecidableEq, Repr

/-- One entry of the event history: a codebook call (port and direction, with its input block) or a draw
from the random source (R14, R231, D36). -/
inductive Event where
  /-- A call of CB1 `E1` on a block. -/
  | e1 (x : Bytes)
  /-- A call of CB1 `D1` on a block. -/
  | d1 (x : Bytes)
  /-- A call of CB2 `E2` on a block. -/
  | e2 (x : Bytes)
  /-- A byte delivered by RND. -/
  | draw (b : Byte)
  deriving DecidableEq, Repr

/-- What reaches the unit from outside: host accesses, in the order the host issued them (R12, R83), and
the hardware reset input (R370). -/
inductive HostEvent where
  /-- A 32-bit read at a byte offset: `MemRead(off, 4)`. -/
  | read (off : Nat)
  /-- A 32-bit write at a byte offset: `MemWrite(off, 4, v)`. -/
  | write (off : Nat) (v : Word)
  /-- An access of any other width, `bits` bits wide (R73). -/
  | otherWidth (isWrite : Bool) (bits : Nat) (off : Nat)
  /-- The hardware reset input (R370). -/
  | resetInput
  deriving DecidableEq, Repr

/-- The constant signals of the codebook ports (R61) and the queue capacities (R7). They are parameters of
the unit and not state (R21): no step changes them (log entry 1). -/
structure Ports where
  /-- BS1: block size of CB1 in bytes, 1 to 16. -/
  bs1 : Nat
  /-- BS2: block size of CB2 in bytes, 1 to 16. -/
  bs2 : Nat
  /-- KEYOK1: CB1 reports a key of accepted length. -/
  keyOk1 : Bool
  /-- KEYOK2: CB2 reports a key of accepted length. -/
  keyOk2 : Bool
  /-- KEYLEN1: length in bytes of CB1's key. -/
  keyLen1 : BitVec 8
  /-- KEYLEN2: length in bytes of CB2's key. -/
  keyLen2 : BitVec 8
  /-- IBUF_CAP: capacity of the input queue, at least 32. -/
  ibufCap : Nat
  /-- OBUF_CAP: capacity of the output queue, at least 32. -/
  obufCap : Nat
  deriving DecidableEq, Repr

/-- The state: everything R21 lists, the constant port signals, and four fields of the model's own (`host`,
`replies`, `events`, `draws`), which stand for the unit's surroundings (log entries 1, 3, 5, 9). -/
structure State where
  /-- IV: the running value of CBC, CFB and OFB; live (R23, R24). -/
  iv : Block
  /-- CTR: the counter of CTR mode; live (R23, R25). -/
  ctr : Block
  /-- TWEAK: the XTS data-unit tweak value (R23, R26). -/
  tweak : Block
  /-- T: the XTS tweak field element (R23, R27). -/
  t : Block
  /-- GFA: first operand of the GF unit (R23, R28). -/
  gfa : Block
  /-- GFB: second operand of the GF unit (R23, R28). -/
  gfb : Block
  /-- GFR: result of the GF unit (R23, R29). -/
  gfr : Block
  /-- SUBK1: CMAC subkey Lu (R23, R30). -/
  subk1 : Block
  /-- SUBK2: CMAC subkey Lu2 (R23, R30). -/
  subk2 : Block
  /-- PARAM.IVLEN (R47). -/
  ivLen : BitVec 5
  /-- PARAM.TWEAKLEN (R47). -/
  tweakLen : BitVec 5
  /-- PARAM.CTRSET (R47). -/
  ctrSet : Bool
  /-- XTSMAX (R46). -/
  xtsMax : Word
  /-- GFN: the exponent of GFPOW2 (R48). -/
  gfn : Word
  /-- MODE (R52). -/
  mode : Mode
  /-- DIR (R53). -/
  dir : Direction
  /-- BLOCKSIZE in bytes, 0 to 16 (R54). -/
  blockSize : Nat
  /-- SEG in bytes, 0 to 16 (R55). -/
  seg : Nat
  /-- BYTECOUNT, 0 to 15 (R59). -/
  byteCount : Nat
  /-- CACHE: bytes received but not yet forming a full block (R56). -/
  cache : Bytes
  /-- KS: keystream bytes not yet used (R57). -/
  ks : Bytes
  /-- FB: feedback bytes of the current CFB segment (R58). -/
  fb : Bytes
  /-- IBUF: the input queue, oldest byte first (R62, R78). -/
  ibuf : Bytes
  /-- OBUF: the output queue, oldest byte first (R63, R78). -/
  obuf : Bytes
  /-- ERR: the latched error, `none` for code 0 (R43, R330). -/
  err : Option ErrorKind
  /-- ERRCMD: the command word that failed (R44). -/
  errcmd : Word
  /-- The constant signals of the ports and the queue capacities (R61, R7). -/
  ports : Ports
  /-- Model: the host accesses not yet served, oldest first (R83). -/
  host : List HostEvent
  /-- Model: the values that reads have returned to the host, oldest first (R12). -/
  replies : List Word
  /-- Model: the codebook calls and draws made so far, oldest first (R14, D36). -/
  events : List Event
  /-- Model: how many bytes the random source has delivered (R64). -/
  draws : Nat
  deriving DecidableEq, Repr

/-- Why the machine stops with a fault. -/
inductive Fault where
  /-- Raised by an aligned 32-bit host access at an offset of 0x100 or more: the address does not exist in
  the unit's 256-byte register space (R70, R72). Safe: the run stops and no claim about it can be proved. -/
  | outsideRegisterSpace
  deriving DecidableEq, Repr

/-- Why the model gives an access no meaning. -/
inductive Refusal where
  /-- Raised by `exec` for a command that has no meaning yet. Safe. No arm of this model raises it. -/
  | notModelled (mnemonic : String)
  /-- Raised by a host access whose width is not 32 bits: a bus error, which changes no state of the unit
  and which a model refuses (R73, R343). Safe. -/
  | busErrorWidth
  /-- Raised by a 32-bit host access at an offset that is not a multiple of 4: a bus error, which changes no
  state of the unit and which a model refuses (R73, R343). Safe. -/
  | busErrorMisaligned
  deriving DecidableEq, Repr

/-- The port signals and capacities that `State.reset` carries: block sizes of the reference configuration
(R7); the other values are the model's (log entry 1). -/
def Ports.reference : Ports where
  bs1 := Config.referenceBs1
  bs2 := 16
  keyOk1 := true
  keyOk2 := true
  keyLen1 := 16#8
  keyLen2 := 16#8
  ibufCap := 1048576
  obufCap := 1048576

/-- The machine right after reset (R66, R370), no host access waiting and nothing yet replied, called or
drawn. -/
def State.reset : State where
  iv := 0
  ctr := 0
  tweak := 0
  t := 0
  gfa := 0
  gfb := 0
  gfr := 0
  subk1 := 0
  subk2 := 0
  ivLen := 0
  tweakLen := 0
  ctrSet := false
  xtsMax := Config.xtsMaxReset
  gfn := 0
  mode := .none
  dir := .unset
  blockSize := 0
  seg := 0
  byteCount := 0
  cache := []
  ks := []
  fb := []
  ibuf := []
  obuf := []
  err := none
  errcmd := 0
  ports := Ports.reference
  host := []
  replies := []
  events := []
  draws := 0

end Sys2Proof.Machine
end

