-- ==== Sys2Proof/Machine/Ops.lean ====
section
/-! DEFINITION. The shared operations: byte strings and their integer readings (R9, R10), block registers
as byte strings (R11), codebook calls and draws (R14, R64), the error latch and its release (R333, R340),
the queues (R62, R63, R86, R87), reset (R370), and the loops of the update functions (R210, R232). -/

namespace Sys2Proof.Machine

/-! ### Byte strings -/

/-- `zeros(n)`: n bytes of 0x00 (R9). -/
def zeros (n : Nat) : Bytes := List.replicate n 0

/-- `s xor t` on two strings of the same length, bytewise (R9). -/
def xorBytes (s t : Bytes) : Bytes := List.zipWith (· ^^^ ·) s t

/-- `be2int(s)`: the big-endian reading of a byte string (R10). -/
def be2int (s : Bytes) : Nat := s.foldl (fun a b => a * 256 + b.toNat) 0

/-- `int2be(v, n)`: the n-byte string whose big-endian reading is `v mod 256^n` (R10). -/
def int2be (v : Nat) : Nat → Bytes
  | 0 => []
  | n + 1 => int2be (v / 256) n ++ [BitVec.ofNat 8 v]

/-- `le2int(s)`: the little-endian reading, `be2int(rev(s))` (R10). -/
def le2int (s : Bytes) : Nat := be2int s.reverse

/-- `int2le(v, n) = rev(int2be(v, n))` (R10). -/
def int2le (v n : Nat) : Bytes := (int2be v n).reverse

/-! ### Block registers as byte strings -/

/-- `blk(R, n)`: bytes 0 to n-1 of a block register, byte 0 the most significant (R11). -/
def blk (r : Block) (n : Nat) : Bytes := (int2be r.toNat 16).take n

/-- The block register whose 16 bytes are `s` (R11). -/
def ofBytes (s : Bytes) : Block := BitVec.ofNat 128 (be2int s)

/-- `setblk(R, s)`: write `s` into bytes 0 to len(s)-1 of a register and leave the other bytes (R11). -/
def setblk (r : Block) (s : Bytes) : Block := ofBytes (s ++ (blk r 16).drop s.length)

/-! ### Cutting a string into blocks -/

/-- The first `n` blocks of `bs` bytes of a buffer, in order (R210, R266, R284). -/
def chunks (bs : Nat) : Nat → Bytes → List Bytes
  | 0, _ => []
  | n + 1, buf => buf.take bs :: chunks bs n (buf.drop bs)

/-- Run a step over a list, front to back: the outputs are concatenated and the state is threaded. This is
the loop of the block modes (R210) and of the stream modes (R232). -/
def runList {α : Type} (f : α → State → Bytes × State) : List α → State → Bytes × State
  | [], s => ([], s)
  | a :: as, s =>
    let r := f a s
    let q := runList f as r.2
    (r.1 ++ q.1, q.2)

/-! ### Codebook calls and draws -/

/-- Append one entry to the event history (R14, D36). -/
def State.log (s : State) (e : Event) : State := { s with events := s.events ++ [e] }

/-- A call of CB1 `E1` on a block (R14, R60). -/
def callE1 (K : Environment) (x : Bytes) (s : State) : Bytes × State := (K.e1 x, s.log (.e1 x))

/-- A call of CB1 `D1` on a block (R14, R60). -/
def callD1 (K : Environment) (x : Bytes) (s : State) : Bytes × State := (K.d1 x, s.log (.d1 x))

/-- A call of CB2 `E2` on a block (R14, R60). -/
def callE2 (K : Environment) (x : Bytes) (s : State) : Bytes × State := (K.e2 x, s.log (.e2 x))

/-- `E1` when encrypting, `D1` when decrypting (R211, R265). -/
def callCb1 (K : Environment) (d : Direction) (x : Bytes) (s : State) : Bytes × State :=
  match d with
  | .decrypting => callD1 K x s
  | .encrypting | .unset => callE1 K x s

/-- One byte from the random source: a free value, a fresh one at every draw (R64). -/
def drawByte (K : Environment) (s : State) : Byte × State :=
  (K.rnd s.draws, { s.log (.draw (K.rnd s.draws)) with draws := s.draws + 1 })

/-- `n` bytes from the random source, in the order they are drawn (R306). -/
def drawBytes (K : Environment) : Nat → State → Bytes × State
  | 0, s => ([], s)
  | n + 1, s =>
    let r := drawByte K s
    let q := drawBytes K n r.2
    (r.1 :: q.1, q.2)

/-! ### The error latch: taking an exception, and the return from one -/

/-- Taking an exception (R333): the first error is latched with the word that failed; nothing else changes,
and a latched error is not replaced (R341). -/
def latch (k : ErrorKind) (w : Word) (s : State) : State :=
  match s.err with
  | none => { s with err := some k, errcmd := w }
  | some _ => s

/-- Return from an exception (R190, R340): the latch is cleared, nothing else changes. -/
def clearError (s : State) : State := { s with err := none, errcmd := 0 }

/-- Run a command's effect if its checks found no error, else raise the error they found. Every command
makes all its checks before its first state change (R13, R333). -/
def checked (c : Option ErrorKind) (w : Word) (effect : State → State) (s : State) : State :=
  match c with
  | some k => latch k w s
  | none => effect s

/-! ### Reset -/

/-- Every piece of the unit's state takes its reset value (R66, R370). The port signals belong to the
surrounding system, and the host's accesses, the replies, the event history and the random source are
outside the unit: none of them is reset (log entry 6). -/
def resetUnit (s : State) : State :=
  { State.reset with
    ports := s.ports
    host := s.host
    replies := s.replies
    events := s.events
    draws := s.draws }

/-! ### The queues -/

/-- ERRCMD of an overflow of IBUF, a word that is no command (R333). -/
def pushErrorWord : Word := 0xFFFFFFFF#32

/-- DIN push (R86). -/
def pushDin (v : Word) (s : State) : State :=
  if s.ibuf.length < s.ports.ibufCap then { s with ibuf := s.ibuf ++ [v.setWidth 8] }
  else latch .bufferOverflow pushErrorWord s

/-- What a read of DOUT returns when OBUF is empty: bit 31, EMPTY (R87). -/
def doutEmpty : Word := 0x80000000#32

/-- DOUT pop (R87): the value returned to the host and the state after. -/
def popDout (s : State) : Word × State :=
  match s.obuf with
  | b :: rest => (b.setWidth 32, { s with obuf := rest })
  | [] => (doutEmpty, s)

/-- A read returns a value to the host (R12). -/
def State.reply (s : State) (v : Word) : State := { s with replies := s.replies ++ [v] }

end Sys2Proof.Machine
end

