-- ==== Sys2Proof/Machine/BlockModes.lean ====
section
/-! DEFINITION. The block cache and the ECB and CBC updates (R210, R211, R214, R215). -/

namespace Sys2Proof.Machine

/-- The cache control logic shared by ECB and CBC (R210): the data is appended to CACHE, every full block
is taken from the front and processed in order, and the remainder stays in CACHE. -/
def cacheUpdate (f : Bytes → State → Bytes × State) (data : Bytes) (s : State) : Bytes × State :=
  let buf := s.cache ++ data
  let n := buf.length / s.blockSize
  runList f (chunks s.blockSize n buf) { s with cache := buf.drop (n * s.blockSize) }

/-- ECB update (R211). -/
def updateEcb (K : Environment) (d : Direction) (data : Bytes) (s : State) : Bytes × State :=
  cacheUpdate (callCb1 K d) data s

/-- One block of CBC, encrypting: the running value becomes the ciphertext block (R214). -/
def cbcEncryptBlock (K : Environment) (b : Bytes) (s : State) : Bytes × State :=
  let c := callE1 K (xorBytes b (blk s.iv s.blockSize)) s
  (c.1, { c.2 with iv := setblk s.iv c.1 })

/-- One block of CBC, decrypting: the XOR uses the running value as it was, which then becomes the
ciphertext block just consumed (R215). -/
def cbcDecryptBlock (K : Environment) (b : Bytes) (s : State) : Bytes × State :=
  let p := callD1 K b s
  (xorBytes p.1 (blk s.iv s.blockSize), { p.2 with iv := setblk s.iv b })

/-- CBC update (R214, R215). -/
def updateCbc (K : Environment) (d : Direction) (data : Bytes) (s : State) : Bytes × State :=
  match d with
  | .decrypting => cacheUpdate (cbcDecryptBlock K) data s
  | .encrypting | .unset => cacheUpdate (cbcEncryptBlock K) data s

end Sys2Proof.Machine
end

