-- ==== Sys2Proof/Machine/GfUnit.lean ====
section
/-! DEFINITION. GF(2^n) arithmetic (R141 to R146) and the commands of the GF unit (R150, R152, R154,
R155). -/

namespace Sys2Proof.Machine

/-! ### The functions -/

/-- The number of bits of a natural number: `deg(p) + 1`, so 0 for p = 0 (R141). -/
def bitLen (p : Nat) : Nat := if p = 0 then 0 else Nat.log2 p + 1

/-- `deg(p)`: the position of the highest set bit, -1 for p = 0 (R141). -/
def deg (p : Nat) : Int := (bitLen p : Int) - 1

/-- `clmul(a, b)`: the carry-less product (R141). -/
def clmul (a b : Nat) : Nat :=
  (List.range (bitLen b)).foldl (fun p i => if b.testBit i then p ^^^ (a <<< i) else p) 0

/-- The loop of `polyred`, at most `fuel` passes (R142). -/
def polyredLoop (m : Nat) : Nat → Nat → Nat
  | 0, p => p
  | fuel + 1, p =>
    if bitLen m ≤ bitLen p then polyredLoop m fuel (p ^^^ (m <<< (bitLen p - bitLen m))) else p

/-- `polyred(p, m)`, for m ≥ 1: the remainder of p modulo m (R142). Each pass clears the top bit of p, so
`bitLen p` passes are enough. -/
def polyred (p m : Nat) : Nat := polyredLoop m (bitLen p) p

/-- `gf2n_mul(a, b, m) = polyred(clmul(a, b), m)`; no meaning at m = 0 (R142). No command performs it with
another modulus than `p128`. -/
def gf2nMul (a b m : Nat) : Option Nat := if m = 0 then none else some (polyred (clmul a b) m)

/-- `P128 = 2^128 + 0x87`, the modulus x^128+x^7+x^2+x+1 (R143). -/
def p128 : Nat := 2 ^ 128 + 0x87

/-- `gf2pow128mul(a, b)`: multiplication in GF(2^128) (R143). -/
def gf2pow128mul (a b : Block) : Block := BitVec.ofNat 128 (polyred (clmul a.toNat b.toNat) p128)

/-- The shift-and-reduce routine on a value of w bits with reduction constant rb (R144). -/
def dbl {w : Nat} (v rb : BitVec w) : BitVec w := if v.msb then (v <<< 1) ^^^ rb else v <<< 1

/-- `xtime128(v) = dbl(v, 128, 0x87)` (R144). -/
def xtime128 (v : Block) : Block := dbl v 0x87#128

/-- `dbl64(v) = dbl(v, 64, 0x1B)` (R144). -/
def dbl64 (v : BitVec 64) : BitVec 64 := dbl v 0x1B#64

/-- `gf2pow128powof2(n)`: n doublings of 1 (R146). -/
def gf2pow128powof2 : Nat → Block
  | 0 => 1
  | n + 1 => xtime128 (gf2pow128powof2 n)

/-- 2 to the power of the k highest bits of the 32-bit exponent `n`, by squaring and doubling. -/
def powSquareDouble (n : Word) : Nat → Block
  | 0 => 1
  | k + 1 =>
    let r := powSquareDouble n k
    let q := gf2pow128mul r r
    if n.getLsbD (31 - k) then xtime128 q else q

/-- What GFPOW2 computes, in a form that can be evaluated for every exponent; R390 asks that the result be
defined without counting steps. That it is `gf2pow128powof2` of the exponent is a statement of its own
(Obligations.GfPow2IsRepeatedDoubling). -/
def gfPow2 (n : Word) : Block := powSquareDouble n 32

/-! ### The commands -/

/-- GFMUL (R150). -/
def execGfmul (s : State) : Host.Outcome State Fault Refusal :=
  .next { s with gfr := gf2pow128mul s.gfa s.gfb }

/-- GFPOW2 (R152). -/
def execGfpow2 (s : State) : Host.Outcome State Fault Refusal :=
  .next { s with gfr := gfPow2 s.gfn }

/-- GFDBL, W = 0 (R154). -/
def execGfdbl (s : State) : Host.Outcome State Fault Refusal :=
  .next { s with gfr := xtime128 s.gfa }

/-- GFDBL.64, W = 1: GFA bits 127:64 are ignored and GFR bits 127:64 become 0 (R155). -/
def execGfdbl64 (s : State) : Host.Outcome State Fault Refusal :=
  .next { s with gfr := (dbl64 (s.gfa.setWidth 64)).setWidth 128 }

end Sys2Proof.Machine
end

