-- ==== Sys2Proof/Machine/Cmac.lean ====
section
/-! DEFINITION. CMAC: the subkey derivation engine and the tag (R280 to R285). -/

namespace Sys2Proof.Machine

/-- Doubling of a block of 8 or 16 bytes, read big-endian: Rb is 0x1B for 8 bytes, 0x87 for 16 (R281). -/
def dblBlock (b : Bytes) : Bytes :=
  if b.length = 8 then int2be (dbl64 (BitVec.ofNat 64 (be2int b))).toNat 8
  else int2be (xtime128 (BitVec.ofNat 128 (be2int b))).toNat 16

/-- Subkey derivation, the last step of a successful INIT CMAC (R282). -/
def deriveSubkeys (K : Environment) (s : State) : State :=
  let l := callE1 K (zeros s.blockSize) s
  let lu := dblBlock l.1
  let lu2 := dblBlock lu
  { l.2 with
    subk1 := ofBytes (lu ++ zeros (16 - s.blockSize))
    subk2 := ofBytes (lu2 ++ zeros (16 - s.blockSize)) }

/-- CBC-chain blocks through the codebook from the chaining value `x` (R284). -/
def cmacChain (K : Environment) : List Bytes → Bytes → State → Bytes × State
  | [], x, s => (x, s)
  | b :: bs, x, s =>
    let c := callE1 K (xorBytes x b) s
    cmacChain K bs c.1 c.2

/-- The number of chunks of an n-byte message: the empty message has one, empty, chunk (R284). -/
def cmacBlocks (n bs : Nat) : Nat := max 1 ((n + bs - 1) / bs)

/-- The last chunk, XORed with SUBK1 if it is a full block, else padded with 0x80 and zeros and XORed with
SUBK2 (R284). -/
def cmacLast (last : Bytes) (s : State) : Bytes :=
  if last.length = s.blockSize then xorBytes last (blk s.subk1 s.blockSize)
  else xorBytes (last ++ [0x80#8] ++ zeros (s.blockSize - last.length - 1)) (blk s.subk2 s.blockSize)

/-- CMAC update: the whole tag of the message, computed from scratch (R284, R285). -/
def updateCmac (K : Environment) (data : Bytes) (s : State) : Bytes × State :=
  let n := cmacBlocks data.length s.blockSize
  let x := cmacChain K (chunks s.blockSize (n - 1) data) (zeros s.blockSize) s
  callE1 K (xorBytes x.1 (cmacLast (data.drop (s.blockSize * (n - 1))) s)) x.2

end Sys2Proof.Machine
end

