-- ==== Sys2Proof/Machine/Padding.lean ====
section
/-! DEFINITION. The padder of FINAL (R300 to R307) and the host-side unpad functions (R310 to R316). -/

namespace Sys2Proof.Machine

/-! ### Padding -/

/-- `npad(L, bs) = bs - (L mod bs)` (R301). -/
def npad (len bs : Nat) : Nat := bs - len % bs

/-- The number of padding bytes, known without drawing (R307, R317). -/
def padLength (scheme : PadScheme) (len bs : Nat) : Nat :=
  match scheme with
  | .bitPadding => 1 + (bs - (len + 1) % bs) % bs
  | .zerosPadding => (bs - len % bs) % bs
  | .pkcs7 | .ansiX923 | .iso10126 => npad len bs

/-- `padbytes(L, scheme, bs)` (R302 to R306): only ISO_10126 draws random bytes, npad - 1 of them. -/
def padBytes (K : Environment) (scheme : PadScheme) (len bs : Nat) (s : State) : Bytes × State :=
  match scheme with
  | .bitPadding => (0x80#8 :: zeros ((bs - (len + 1) % bs) % bs), s)
  | .zerosPadding => (zeros ((bs - len % bs) % bs), s)
  | .pkcs7 => (List.replicate (npad len bs) (BitVec.ofNat 8 (npad len bs)), s)
  | .ansiX923 => (zeros (npad len bs - 1) ++ [BitVec.ofNat 8 (npad len bs)], s)
  | .iso10126 =>
    let r := drawBytes K (npad len bs - 1) s
    (r.1 ++ [BitVec.ofNat 8 (npad len bs)], r.2)

/-- `pad(data, scheme, bs) = data ++ padbytes(len(data), scheme, bs)` (R300). -/
def pad (K : Environment) (scheme : PadScheme) (bs : Nat) (data : Bytes) (s : State) : Bytes × State :=
  let r := padBytes K scheme data.length bs s
  (data ++ r.1, r.2)

/-! ### Unpadding, on the host -/

/-- The string without its trailing 0x00 bytes (R312, R313). -/
def stripZeros (d : Bytes) : Bytes := (d.reverse.dropWhile (· == 0)).reverse

/-- Strip the number of bytes that the last byte says, if `ok` accepts the bytes before it; `none` is
PaddingError (R314 to R316). -/
def stripCounted (ok : Byte → Bytes → Bool) (d : Bytes) : Option Bytes :=
  match d.getLast? with
  | none => none
  | some n =>
    if n = 0 ∨ d.length < n.toNat then none
    else if ok n ((d.drop (d.length - n.toNat)).dropLast) then some (d.take (d.length - n.toNat))
    else none

/-- `unpad(d, scheme)` (R312 to R316); `none` is PaddingError, which only the host meets (R310, R332). No
command calls it. -/
def unpad (scheme : PadScheme) (d : Bytes) : Option Bytes :=
  match scheme with
  | .bitPadding =>
    let s := stripZeros d
    if s.getLast? = some 0x80#8 then some s.dropLast else some s
  | .zerosPadding => some (stripZeros d)
  | .pkcs7 => stripCounted (fun n p => p.all (· == n)) d
  | .ansiX923 => stripCounted (fun _ p => p.all (· == 0)) d
  | .iso10126 => stripCounted (fun _ _ => true) d

end Sys2Proof.Machine
end

