-- ==== Sys2Proof/Machine/StreamModes.lean ====
section
/-! DEFINITION. The keystream buffer and the CFB, OFB and CTR updates (R230 to R244). -/

namespace Sys2Proof.Machine

/-- Refill KS if, and only if, it is empty and a byte is needed (R230). -/
def refillIfEmpty (refill : State → State) (s : State) : State :=
  match s.ks with
  | [] => refill s
  | _ :: _ => s

/-- One byte of a stream update: the next keystream byte is taken from the front of KS and XORed onto the
input byte (R232). A refill leaves at least one byte in KS whenever a session exists (R65), so the 0 that
stands for a missing byte is never used there (log entry 11). -/
def streamByte (refill : State → State) (x : Byte) (s : State) : Byte × State :=
  let r := refillIfEmpty refill s
  (x ^^^ r.ks.headD 0, { r with ks := r.ks.tail })

/-- The common shape of the stream updates: the bytes in order, then BYTECOUNT (R232). -/
def streamUpdate (f : Byte → State → Bytes × State) (data : Bytes) (s : State) : Bytes × State :=
  let r := runList f data s
  (r.1, { r.2 with byteCount := (r.2.byteCount + data.length) % r.2.blockSize })

/-! ### CFB -/

/-- CFB refill (R235): the first SEG bytes of the codebook output are the keystream, and FB is emptied. -/
def refillCfb (K : Environment) (s : State) : State :=
  let c := callE1 K (blk s.iv s.blockSize) s
  { c.2 with ks := c.1.take s.seg, fb := [] }

/-- The end of a CFB segment: the running value is shifted left by SEG bytes and FB put at its end (R236). -/
def shiftCfb (s : State) : State :=
  match s.ks with
  | [] => { s with iv := setblk s.iv ((blk s.iv s.blockSize).drop s.seg ++ s.fb) }
  | _ :: _ => s

/-- One byte of CFB: the ciphertext byte, the output when encrypting and the input when decrypting, is
appended to FB (R236). -/
def cfbByte (K : Environment) (d : Direction) (x : Byte) (s : State) : Bytes × State :=
  let r := streamByte (refillCfb K) x s
  let c := match d with
    | .decrypting => x
    | .encrypting | .unset => r.1
  ([r.1], shiftCfb { r.2 with fb := r.2.fb ++ [c] })

/-- CFB update (R236). -/
def updateCfb (K : Environment) (d : Direction) (data : Bytes) (s : State) : Bytes × State :=
  streamUpdate (cfbByte K d) data s

/-! ### OFB -/

/-- OFB refill (R240): the running value is encrypted in place and is the keystream. -/
def refillOfb (K : Environment) (s : State) : State :=
  let c := callE1 K (blk s.iv s.blockSize) s
  let iv := setblk s.iv c.1
  { c.2 with iv := iv, ks := blk iv s.blockSize }

/-- One byte of OFB (R240). -/
def ofbByte (K : Environment) (x : Byte) (s : State) : Bytes × State :=
  let r := streamByte (refillOfb K) x s
  ([r.1], r.2)

/-- OFB update: the direction does not change the computation (R240). -/
def updateOfb (K : Environment) (data : Bytes) (s : State) : Bytes × State :=
  streamUpdate (ofbByte K) data s

/-! ### CTR -/

/-- The counter block: the low-order BLOCKSIZE bytes of CTR, big-endian (R243). -/
def counterBlock (s : State) : Bytes := int2be (s.ctr.toNat % 256 ^ s.blockSize) s.blockSize

/-- One call of the counter: the current value, then the increment modulo 2^128 (R243). -/
def nextBlock (s : State) : Bytes × State := (counterBlock s, { s with ctr := s.ctr + 1 })

/-- CTR refill (R244). -/
def refillCtr (K : Environment) (s : State) : State :=
  let n := nextBlock s
  let c := callE1 K n.1 n.2
  { c.2 with ks := c.1 }

/-- One byte of CTR (R244). -/
def ctrByte (K : Environment) (x : Byte) (s : State) : Bytes × State :=
  let r := streamByte (refillCtr K) x s
  ([r.1], r.2)

/-- CTR update: the direction does not change the computation (R244). -/
def updateCtr (K : Environment) (data : Bytes) (s : State) : Bytes × State :=
  streamUpdate (ctrByte K) data s

end Sys2Proof.Machine
end

