-- ==== Sys2Proof/Machine/Operands.lean ====
section
/-! DEFINITION. The register operands: the nine block registers and their words (R11, R23, R76, R77), the
slots of the register space (R71, R112), and the XTS tweak block (R262). A command word has no other
operand form than the SEG field, which the decoder hands over (R114 to R117). -/

namespace Sys2Proof.Machine

/-- The nine block registers, in the order of their offsets (R23). -/
inductive BlockReg where
  | iv
  | ctr
  | tweak
  | t
  | gfa
  | gfb
  | gfr
  | subk1
  | subk2
  deriving DecidableEq, Repr

/-- The base offset of a block register (R23, R112). -/
def BlockReg.base : BlockReg → Nat
  | .iv => 0x40
  | .ctr => 0x50
  | .tweak => 0x60
  | .t => 0x70
  | .gfa => 0x80
  | .gfb => 0x90
  | .gfr => 0xA0
  | .subk1 => 0xB0
  | .subk2 => 0xC0

/-- Whether the host may write a block register (R23). -/
def BlockReg.writable : BlockReg → Bool
  | .iv | .ctr | .tweak | .gfa | .gfb => true
  | .t | .gfr | .subk1 | .subk2 => false

/-- The value of a block register. -/
def readBlock (r : BlockReg) (s : State) : Block :=
  match r with
  | .iv => s.iv
  | .ctr => s.ctr
  | .tweak => s.tweak
  | .t => s.t
  | .gfa => s.gfa
  | .gfb => s.gfb
  | .gfr => s.gfr
  | .subk1 => s.subk1
  | .subk2 => s.subk2

/-- A host write of a block register; one to a read-only register is ignored (R23, R80). -/
def hostWriteBlock (r : BlockReg) (v : Block) (s : State) : State :=
  match r with
  | .iv => { s with iv := v }
  | .ctr => { s with ctr := v }
  | .tweak => { s with tweak := v }
  | .gfa => { s with gfa := v }
  | .gfb => { s with gfb := v }
  | .t | .gfr | .subk1 | .subk2 => s

/-- Word k of a block register: bits 127-32k down to 96-32k (R11, R76). -/
def getWord (r : Block) (k : Nat) : Word := r.extractLsb' (96 - 32 * k) 32

/-- Replace word k of a block register and leave the other 96 bits (R77). -/
def setWord (r : Block) (k : Nat) (v : Word) : Block :=
  (r &&& ~~~(((0xFFFFFFFF#32).setWidth 128) <<< (96 - 32 * k))) ||| (v.setWidth 128 <<< (96 - 32 * k))

/-- What stands at an offset of the register space (R112). -/
inductive Slot where
  | id
  | cap
  | cmd
  | status
  | errcmd
  | bufstat
  | ilevel
  | olevel
  | din
  | dout
  | xtsmax
  | param
  | gfn
  /-- Word k of a block register. -/
  | block (r : BlockReg) (k : Nat)
  /-- Offsets 0x34, 0x38, 0x3C and 0xD0 to 0xFC (R74). -/
  | reserved
  deriving DecidableEq, Repr

/-- The block register whose sixteen offsets hold `off`, for 0x40 ≤ off ≤ 0xCF (R71). -/
def blockRegAt (off : Nat) : BlockReg :=
  match off / 16 with
  | 4 => .iv
  | 5 => .ctr
  | 6 => .tweak
  | 7 => .t
  | 8 => .gfa
  | 9 => .gfb
  | 10 => .gfr
  | 11 => .subk1
  | _ => .subk2

/-- The register map (R71, R112), for an offset that is a multiple of 4 and less than 0x100. -/
def slotAt (off : Nat) : Slot :=
  match off with
  | 0x00 => .id
  | 0x04 => .cap
  | 0x08 => .cmd
  | 0x0C => .status
  | 0x10 => .errcmd
  | 0x14 => .bufstat
  | 0x18 => .ilevel
  | 0x1C => .olevel
  | 0x20 => .din
  | 0x24 => .dout
  | 0x28 => .xtsmax
  | 0x2C => .param
  | 0x30 => .gfn
  | off => if 0x40 ≤ off ∧ off < 0xD0 then .block (blockRegAt off) (off % 16 / 4) else .reserved

/-- The number of bytes of TWEAK that count: TWEAKLEN, 16 to 31 all meaning 16 (R47, R262). -/
def tweakLength (s : State) : Nat := min s.tweakLen.toNat 16

/-- The XTS tweak block: the first TWEAKLEN bytes of TWEAK, zero-padded on the right (R262). -/
def tweakBlock (s : State) : Bytes := blk s.tweak (tweakLength s) ++ zeros (16 - tweakLength s)

end Sys2Proof.Machine
end

