-- ==== Sys2Proof/Machine/Xts.lean ====
section
/-! DEFINITION. XTS: the tweak stepper and ciphertext stealing (R260 to R268). -/

namespace Sys2Proof.Machine

/-- The mask of a tweak value: its 16 bytes, low-order byte first (R263). -/
def mask (t : Block) : Bytes := int2le t.toNat 16

/-- The first tweak: the codebook output read as a little-endian integer (R262). -/
def firstTweak (K : Environment) (s : State) : Block := BitVec.ofNat 128 (le2int (K.e2 (tweakBlock s)))

/-- One block of XTS under the tweak `t` (R265). -/
def xtsBlock (K : Environment) (d : Direction) (t : Block) (x : Bytes) (s : State) : Bytes × State :=
  let c := callCb1 K d (xorBytes x (mask t)) s
  (xorBytes c.1 (mask t), c.2)

/-- One round of the block loop: the block under the current tweak, then the stepper. T is the running
tweak of the rule and, after the last round, the register (R264, R266, R268). -/
def xtsRound (K : Environment) (d : Direction) (x : Bytes) (s : State) : Bytes × State :=
  let r := xtsBlock K d s.t x s
  (r.1, { r.2 with t := xtime128 s.t })

/-- Ciphertext stealing on the last full block `x1` and the tail `x2` of 1 to 15 bytes, T being the tweak of
the last full block; the two tweaks are exchanged when decrypting (R266). It makes two codebook calls, so the
update of m blocks and a tail makes m + 1: R266's pseudocode and worked example say so, its prose and R390 say m
(DEDUCED, log entry 18). -/
def xtsSteal (K : Environment) (d : Direction) (x1 x2 : Bytes) (s : State) : Bytes × State :=
  let next := xtime128 s.t
  let ta := match d with
    | .decrypting => next
    | .encrypting | .unset => s.t
  let tb := match d with
    | .decrypting => s.t
    | .encrypting | .unset => next
  let pp := xtsBlock K d ta x1 s
  let cc := xtsBlock K d tb (x2 ++ pp.1.drop x2.length) pp.2
  (cc.1 ++ pp.1.take x2.length, { cc.2 with t := next })

/-- XTS update: the whole data unit, at least 16 bytes (R266). -/
def updateXts (K : Environment) (d : Direction) (data : Bytes) (s : State) : Bytes × State :=
  let e := callE2 K (tweakBlock s) s
  let s0 := { e.2 with t := BitVec.ofNat 128 (le2int e.1) }
  let m := data.length / 16
  let b := data.length % 16
  if b = 0 then runList (xtsRound K d) (chunks 16 m data) s0
  else
    let r := runList (xtsRound K d) (chunks 16 (m - 1) data) s0
    let q := xtsSteal K d ((data.drop (16 * (m - 1))).take 16) (data.drop (16 * m)) r.2
    (r.1 ++ q.1, q.2)

end Sys2Proof.Machine
end

