-- ==== Sys2Proof/Machine/Crypt.lean ====
section
/-! DEFINITION. ENC, DEC and FINAL: the checks, the choice of the update by mode, and the queues (R200 to
R207, R317 to R321). -/

namespace Sys2Proof.Machine

/-- `update(data, d)`, chosen by MODE (R205). With no session there is nothing to update; ENC, DEC and FINAL
raise IllegalCommand before they come here. -/
def update (K : Environment) (d : Direction) (data : Bytes) (s : State) : Bytes × State :=
  match s.mode with
  | .none => ([], s)
  | .ecb => updateEcb K d data s
  | .cbc => updateCbc K d data s
  | .cfb => updateCfb K d data s
  | .ofb => updateOfb K data s
  | .ctr => updateCtr K data s
  | .xts => updateXts K d data s
  | .cmac => updateCmac K data s

/-- `outlen(n)`: the bytes that an update with n input bytes appends to OBUF (R204). -/
def outlen (n : Nat) (s : State) : Nat :=
  match s.mode with
  | .none => 0
  | .ecb | .cbc => s.blockSize * ((s.cache.length + n) / s.blockSize)
  | .cfb | .ofb | .ctr | .xts => n
  | .cmac => s.blockSize

/-- Feed `data` through the update of the session and append what it produces to OBUF. -/
def feed (K : Environment) (d : Direction) (data : Bytes) (s : State) : State :=
  let r := update K d data s
  { r.2 with obuf := r.2.obuf ++ r.1 }

/-! ### ENC and DEC -/

/-- The checks of ENC and DEC, in the order they are made (R202, R336). -/
def cryptCheck (d : Direction) (s : State) : Option ErrorKind :=
  if s.mode = .none then some .illegalCommand
  else if s.mode = .cmac ∧ d = .decrypting then some .illegalCommand
  else if s.dir ≠ .unset ∧ s.dir ≠ d then some .directionConflict
  else if s.mode = .xts ∧ s.ibuf.length < 16 then some .inputTooShort
  else if s.mode = .xts ∧ s.xtsMax.toNat ≤ s.ibuf.length then some .inputTooLong
  else if s.ports.obufCap < s.obuf.length + outlen s.ibuf.length s then some .bufferOverflow
  else none

/-- What a successful ENC or DEC does: the direction is set, IBUF is taken whole, and the update's output
is appended to OBUF (R202). -/
def cryptEffect (K : Environment) (d : Direction) (s : State) : State :=
  feed K d s.ibuf { s with dir := d, ibuf := [] }

/-- The common body of ENC and DEC (R202). -/
def crypt (K : Environment) (d : Direction) (w : Word) (s : State) : State :=
  checked (cryptCheck d s) w (cryptEffect K d) s

/-- ENC (R200). -/
def execEnc (s : State) : Host.Outcome State Fault Refusal :=
  .next (crypt Config.env .encrypting (encode .enc) s)

/-- DEC (R201). -/
def execDec (s : State) : Host.Outcome State Fault Refusal :=
  .next (crypt Config.env .decrypting (encode .dec) s)

/-! ### FINAL -/

/-- The length that FINAL pads from: len(CACHE) in ECB and CBC (R318), BYTECOUNT in the stream modes
(R320). -/
def finalLength (s : State) : Nat :=
  match s.mode with
  | .ecb | .cbc => s.cache.length
  | .none | .cfb | .ofb | .ctr | .xts | .cmac => s.byteCount

/-- Whether FINAL has a meaning in a mode: not with no session, nor in XTS and CMAC (R289, R317). -/
def finalLegal : Mode → Bool
  | .ecb | .cbc | .cfb | .ofb | .ctr => true
  | .none | .xts | .cmac => false

/-- The checks of FINAL in a session that is encrypting: only the output space is left (R317, R336). -/
def finalSpace (scheme : PadScheme) (s : State) : Option ErrorKind :=
  if s.ports.obufCap < s.obuf.length + outlen (padLength scheme (finalLength s) s.blockSize) s then
    some .bufferOverflow
  else none

/-- What a successful FINAL of an encrypting session does: the padding bytes go through the update of ENC;
IBUF, MODE and DIR stay (R317). -/
def finalEffect (K : Environment) (scheme : PadScheme) (s : State) : State :=
  let p := padBytes K scheme (finalLength s) s.blockSize s
  feed K .encrypting p.1 p.2

/-- FINAL (R317): IllegalCommand where it has no meaning, else a no-op unless the session is encrypting
(R321), else the output-space check and the padding. -/
def final (K : Environment) (scheme : PadScheme) (w : Word) (s : State) : State :=
  if finalLegal s.mode then
    match s.dir with
    | .unset | .decrypting => s
    | .encrypting => checked (finalSpace scheme s) w (finalEffect K scheme) s
  else latch .illegalCommand w s

/-- FINAL bitPadding (R302, R317). -/
def execFinalBitPadding (s : State) : Host.Outcome State Fault Refusal :=
  .next (final Config.env .bitPadding (encode .finalBitPadding) s)

/-- FINAL zerosPadding (R303, R317). -/
def execFinalZerosPadding (s : State) : Host.Outcome State Fault Refusal :=
  .next (final Config.env .zerosPadding (encode .finalZerosPadding) s)

/-- FINAL PKCS7 (R304, R317). -/
def execFinalPkcs7 (s : State) : Host.Outcome State Fault Refusal :=
  .next (final Config.env .pkcs7 (encode .finalPkcs7) s)

/-- FINAL ANSI_X923 (R305, R317). -/
def execFinalAnsiX923 (s : State) : Host.Outcome State Fault Refusal :=
  .next (final Config.env .ansiX923 (encode .finalAnsiX923) s)

/-- FINAL ISO_10126 (R306, R317). -/
def execFinalIso10126 (s : State) : Host.Outcome State Fault Refusal :=
  .next (final Config.env .iso10126 (encode .finalIso10126) s)

end Sys2Proof.Machine
end

