-- ==== Sys2Proof/Machine/Session.lean ====
section
/-! DEFINITION. Session control: NOP, INIT, CLRERR, RESET, FLUSHI, FLUSHO (R170 to R193). -/

namespace Sys2Proof.Machine

/-! ### INIT -/

/-- The modes whose INIT reads PARAM.IVLEN (R171, R176). -/
def needsIv : Mode → Bool
  | .cbc | .cfb | .ofb => true
  | .none | .ecb | .ctr | .xts | .cmac => false

/-- The checks of INIT, in the order they are made: the first that fails decides the error (R171, R174 to
R178, R336). -/
def initCheck (mode : Mode) (s : State) : Option ErrorKind :=
  let p := s.ports
  if !p.keyOk1 then some .invalidKeyLength
  else if mode = .xts ∧ p.keyOk2 = false then some .invalidKeyLength
  else if mode = .xts ∧ p.keyLen1 ≠ p.keyLen2 then some .missingParameter
  else if needsIv mode ∧ s.ivLen = 0 then some .missingParameter
  else if mode = .ctr ∧ s.ctrSet = false then some .missingParameter
  else if needsIv mode ∧ s.ivLen.toNat ≠ p.bs1 then some .invalidIVLength
  else if mode = .cmac ∧ p.bs1 ≠ 8 ∧ p.bs1 ≠ 16 then some .unsupportedBlockSize
  else if mode = .xts ∧ (p.bs1 ≠ 16 ∨ p.bs2 ≠ 16) then some .unsupportedBlockSize
  else none

/-- The effects common to every successful INIT (R180). -/
def startSession (mode : Mode) (s : State) : State :=
  { s with
    mode := mode
    blockSize := s.ports.bs1
    dir := .unset
    seg := 0
    cache := []
    ks := []
    fb := []
    byteCount := 0
    t := 0
    subk1 := 0
    subk2 := 0 }

/-- INIT of a mode: the checks, the common effects, then what the mode adds (R171). -/
def initSession (mode : Mode) (w : Word) (own : State → State) (s : State) : State :=
  checked (initCheck mode s) w (fun s => own (startSession mode s)) s

/-- SEG at INIT CFB: the field, or the full block if the field is 0 (R181). -/
def segmentSize (seg : BitVec 5) (bs1 : Nat) : Nat := if seg = 0 then bs1 else seg.toNat

/-- INIT ECB (R182). -/
def execInitEcb (s : State) : Host.Outcome State Fault Refusal :=
  .next (initSession .ecb (encode .initEcb) id s)

/-- INIT CBC (R183). -/
def execInitCbc (s : State) : Host.Outcome State Fault Refusal :=
  .next (initSession .cbc (encode .initCbc) id s)

/-- INIT CFB (R181, R184). The decoder has refused a segment longer than a block (R120); a term that no
word decodes to raises the same IllegalCommand here. -/
def execInitCfb (seg : BitVec 5) (s : State) : Host.Outcome State Fault Refusal :=
  .next (if s.ports.bs1 < seg.toNat then latch .illegalCommand (encode (.initCfb seg)) s
    else initSession .cfb (encode (.initCfb seg))
      (fun s => { s with seg := segmentSize seg s.ports.bs1 }) s)

/-- INIT OFB (R185). -/
def execInitOfb (s : State) : Host.Outcome State Fault Refusal :=
  .next (initSession .ofb (encode .initOfb) id s)

/-- INIT CTR (R186). -/
def execInitCtr (s : State) : Host.Outcome State Fault Refusal :=
  .next (initSession .ctr (encode .initCtr) id s)

/-- INIT XTS (R187). -/
def execInitXts (s : State) : Host.Outcome State Fault Refusal :=
  .next (initSession .xts (encode .initXts) id s)

/-- INIT CMAC with the codebooks of `K` (R188, R282). -/
def initCmac (K : Environment) (s : State) : State :=
  initSession .cmac (encode .initCmac) (deriveSubkeys K) s

/-- INIT CMAC (R188). -/
def execInitCmac (s : State) : Host.Outcome State Fault Refusal :=
  .next (initCmac Config.env s)

/-! ### The commands that act on the unit as a whole -/

/-- NOP: no state changes (R170). -/
def execNop (s : State) : Host.Outcome State Fault Refusal := .next s

/-- CLRERR: the return from an error (R190, R340). -/
def execClrerr (s : State) : Host.Outcome State Fault Refusal := .next (clearError s)

/-- RESET: exactly the hardware reset (R191, R370). -/
def execReset (s : State) : Host.Outcome State Fault Refusal := .next (resetUnit s)

/-- FLUSHI: IBUF is emptied (R192). -/
def execFlushi (s : State) : Host.Outcome State Fault Refusal := .next { s with ibuf := [] }

/-- FLUSHO: OBUF is emptied (R193). -/
def execFlusho (s : State) : Host.Outcome State Fault Refusal := .next { s with obuf := [] }

end Sys2Proof.Machine
end

