-- ==== Sys2Proof/Machine/Dispatch.lean ====
section
/-! DEFINITION. One arm per command: `execute c` of R110. The blocking by a latched error and the decoding
come before it (Machine/Issue.lean). -/

namespace Sys2Proof.Machine

def exec (i : Instr) (s : State) : Host.Outcome State Fault Refusal :=
  match i with
  | .nop => Sys2Proof.Machine.execNop s
  | .initEcb => Sys2Proof.Machine.execInitEcb s
  | .initCbc => Sys2Proof.Machine.execInitCbc s
  | .initCfb seg => Sys2Proof.Machine.execInitCfb seg s
  | .initOfb => Sys2Proof.Machine.execInitOfb s
  | .initCtr => Sys2Proof.Machine.execInitCtr s
  | .initXts => Sys2Proof.Machine.execInitXts s
  | .initCmac => Sys2Proof.Machine.execInitCmac s
  | .enc => Sys2Proof.Machine.execEnc s
  | .dec => Sys2Proof.Machine.execDec s
  | .finalBitPadding => Sys2Proof.Machine.execFinalBitPadding s
  | .finalZerosPadding => Sys2Proof.Machine.execFinalZerosPadding s
  | .finalPkcs7 => Sys2Proof.Machine.execFinalPkcs7 s
  | .finalAnsiX923 => Sys2Proof.Machine.execFinalAnsiX923 s
  | .finalIso10126 => Sys2Proof.Machine.execFinalIso10126 s
  | .flushi => Sys2Proof.Machine.execFlushi s
  | .flusho => Sys2Proof.Machine.execFlusho s
  | .clrerr => Sys2Proof.Machine.execClrerr s
  | .reset => Sys2Proof.Machine.execReset s
  | .gfmul => Sys2Proof.Machine.execGfmul s
  | .gfpow2 => Sys2Proof.Machine.execGfpow2 s
  | .gfdbl => Sys2Proof.Machine.execGfdbl s
  | .gfdbl64 => Sys2Proof.Machine.execGfdbl64 s

end Sys2Proof.Machine
end

