-- ==== Sys2Proof/Machine/Flags.lean ====
section
/-! DEFINITION. The flags and the read-only views of the state: the tags of MODE, DIR and ERR, the words
STATUS, BUFSTAT, CAP, PARAM, ILEVEL and OLEVEL (R41, R43, R45, R47, R49), and what a write of PARAM keeps
(R47, R81). -/

namespace Sys2Proof.Machine

/-- The mode tags (R52). -/
def modeTag : Mode → BitVec 4
  | .none => 0
  | .ecb => 1
  | .cbc => 2
  | .cfb => 3
  | .ofb => 4
  | .ctr => 5
  | .xts => 6
  | .cmac => 7

/-- The direction codes of STATUS.DIR; 3 never occurs (R43). -/
def dirCode : Direction → BitVec 2
  | .unset => 0
  | .encrypting => 1
  | .decrypting => 2

/-- The error codes (R330). -/
def ErrorKind.code : ErrorKind → BitVec 4
  | .invalidKeyLength => 1
  | .missingParameter => 2
  | .invalidIVLength => 3
  | .unsupportedBlockSize => 4
  | .inputTooShort => 5
  | .inputTooLong => 6
  | .directionConflict => 7
  | .paddingError => 8
  | .illegalCommand => 9
  | .bufferOverflow => 10

/-- STATUS.ERR: 0 is no error (R43, R330). -/
def errCode (e : Option ErrorKind) : BitVec 4 :=
  match e with
  | none => 0
  | some k => k.code

/-- The bit a Boolean shows. -/
def flagBit (b : Bool) : BitVec 1 := if b then 1 else 0

/-- STATUS, most significant field first (R43). -/
def statusWord (s : State) : Word :=
  0#3 ++ BitVec.ofNat 5 s.seg ++ 0#3 ++ BitVec.ofNat 5 s.blockSize ++ 0#6 ++ dirCode s.dir
    ++ modeTag s.mode ++ errCode s.err

/-- BUFSTAT, most significant field first (R45). -/
def bufstatWord (s : State) : Word :=
  0#3 ++ BitVec.ofNat 5 s.byteCount ++ 0#3 ++ BitVec.ofNat 5 s.fb.length ++ 0#3
    ++ BitVec.ofNat 5 s.ks.length ++ 0#3 ++ BitVec.ofNat 5 s.cache.length

/-- CAP, most significant field first (R41). -/
def capWord (p : Ports) : Word :=
  p.keyLen2 ++ p.keyLen1 ++ flagBit p.keyOk2 ++ 0#2 ++ BitVec.ofNat 5 p.bs2 ++ flagBit p.keyOk1 ++ 0#2
    ++ BitVec.ofNat 5 p.bs1

/-- PARAM, most significant field first; the reserved bits read 0 (R47, R81). -/
def paramWord (s : State) : Word :=
  0#15 ++ flagBit s.ctrSet ++ 0#3 ++ s.tweakLen ++ 0#3 ++ s.ivLen

/-- A write of PARAM replaces its three fields and ignores the reserved bits (R47, R81). -/
def writeParam (v : Word) (s : State) : State :=
  { s with ivLen := v.extractLsb' 0 5, tweakLen := v.extractLsb' 8 5, ctrSet := v.getLsbD 16 }

/-- ILEVEL (R49). -/
def ilevelWord (s : State) : Word := BitVec.ofNat 32 s.ibuf.length

/-- OLEVEL (R49). -/
def olevelWord (s : State) : Word := BitVec.ofNat 32 s.obuf.length

end Sys2Proof.Machine
end

