-- ==== Sys2Proof/Machine/HostPort.lean ====
section
/-! DEFINITION. The register side of the host port: reads and plain writes of the register space
(R70 to R88), and the host-side lines of the spec's assembler (R124, R125). -/

namespace Sys2Proof.Machine

/-- The value that a read of a slot returns, for every slot whose read has no side effect; CMD, DIN and the
reserved offsets read 0 (R40 to R50, R74, R75, R80). DOUT is read by `popDout`. -/
def slotValue (slot : Slot) (s : State) : Word :=
  match slot with
  | .id => Config.idValue
  | .cap => capWord s.ports
  | .status => statusWord s
  | .errcmd => s.errcmd
  | .bufstat => bufstatWord s
  | .ilevel => ilevelWord s
  | .olevel => olevelWord s
  | .xtsmax => s.xtsMax
  | .param => paramWord s
  | .gfn => s.gfn
  | .block r k => getWord (readBlock r s) k
  | .dout => (popDout s).1
  | .cmd | .din | .reserved => 0

/-- A 32-bit read of a slot: the value is returned to the host; only DOUT changes the unit (R75, R87). -/
def readSlot (slot : Slot) (s : State) : State :=
  match slot with
  | .dout => (popDout s).2.reply (popDout s).1
  | .id | .cap | .cmd | .status | .errcmd | .bufstat | .ilevel | .olevel | .din | .xtsmax | .param | .gfn
  | .block _ _ | .reserved => s.reply (slotValue slot s)

/-- A 32-bit write of a slot other than CMD: DIN pushes, the writable registers take the value, and a write
to a read-only register or a reserved offset is ignored (R74, R77, R80, R81, R86). -/
def writeSlot (slot : Slot) (v : Word) (s : State) : State :=
  match slot with
  | .din => pushDin v s
  | .xtsmax => { s with xtsMax := v }
  | .param => writeParam v s
  | .gfn => { s with gfn := v }
  | .block r k => hostWriteBlock r (setWord (readBlock r s) k v) s
  | .id | .cap | .cmd | .status | .errcmd | .bufstat | .ilevel | .olevel | .dout | .reserved => s

/-! ### The assembler's lines, as host accesses (R124, R125) -/

/-- The offset of CMD (R42). -/
def cmdOffset : Nat := 0x08

/-- The offset of DIN (R50). -/
def dinOffset : Nat := 0x20

/-- The offset of DOUT (R51). -/
def doutOffset : Nat := 0x24

/-- The offset of PARAM (R47). -/
def paramOffset : Nat := 0x2C

/-- A command line: one write of the command word to CMD (R110, R124). -/
def issueLine (i : Instr) : List HostEvent := [.write cmdOffset (encode i)]

/-- `LDBLK R, hex`: 1 to 16 bytes, padded on the right with 0x00, in four word writes (R88, R125). -/
def loadBlockLine (r : BlockReg) (b : Bytes) : List HostEvent :=
  (List.range 4).map fun k =>
    .write (r.base + 4 * k) (getWord (ofBytes (b ++ zeros (16 - b.length))) k)

/-- `RDBLK R`: four word reads (R88, R125). -/
def readBlockLine (r : BlockReg) : List HostEvent :=
  (List.range 4).map fun k => .read (r.base + 4 * k)

/-- `PUSH hex`: one write of DIN for each byte, first byte first (R125). -/
def pushLine (b : Bytes) : List HostEvent := b.map fun x => .write dinOffset (x.setWidth 32)

/-- `POP n`: n reads of DOUT (R125). -/
def popLine (n : Nat) : List HostEvent := List.replicate n (.read doutOffset)

/-- `SETIV hex`: LDBLK IV, then the length into PARAM.IVLEN, the rest of PARAM as given (R125). -/
def setIvLine (param : Word) (b : Bytes) : List HostEvent :=
  loadBlockLine .iv b ++ [.write paramOffset ((param &&& ~~~0x1F#32) ||| BitVec.ofNat 32 b.length)]

end Sys2Proof.Machine
end

