-- ==== Sys2Proof/Machine/Issue.lean ====
section
/-! DEFINITION. Serving one host access: the issue of a command by a write of CMD (R110), the access widths
and alignment (R72, R73), and the reset input (R370). -/

namespace Sys2Proof.Machine

/-- Whether a word is ignored because an error is latched: every word but exactly CLRERR and RESET (R110,
R335). -/
def blocked (w : Word) (s : State) : Bool :=
  s.err.isSome && w != encode .clrerr && w != encode .reset

/-- A write of `w` to CMD (R110): ignored while an error blocks it, else decoded, and executed or raised as
IllegalCommand. -/
def issue (w : Word) (s : State) : Host.Outcome State Fault Refusal :=
  if blocked w s then .next s
  else
    match decode s.ports.bs1 w with
    | .command i => exec i s
    | .illegal _ => .next (latch .illegalCommand w s)

/-- A 32-bit write: CMD issues a command, every other slot is a plain write (R42, R84). -/
def writeAccess (off : Nat) (v : Word) (s : State) : Host.Outcome State Fault Refusal :=
  match slotAt off with
  | .cmd => issue v s
  | slot => .next (writeSlot slot v s)

/-- The offset check of a 32-bit access (R72, R73). -/
def atOffset (off : Nat) (act : Host.Outcome State Fault Refusal) : Host.Outcome State Fault Refusal :=
  if off % 4 ≠ 0 then .refused .busErrorMisaligned
  else if 0x100 ≤ off then .fault .outsideRegisterSpace
  else act

/-- Serve one event of the host port, with all its effects (R83, R84). -/
def serve (e : HostEvent) (s : State) : Host.Outcome State Fault Refusal :=
  match e with
  | .read off => atOffset off (.next (readSlot (slotAt off) s))
  | .write off v => atOffset off (writeAccess off v s)
  | .otherWidth _ _ _ => .refused .busErrorWidth
  | .resetInput => .next (resetUnit s)

end Sys2Proof.Machine
end

