-- ==== Sys2Proof/Machine/Step.lean ====
section
/-! DEFINITION. One step of the machine: the oldest waiting host access is served whole. -/

namespace Sys2Proof.Machine

/-- One step. The unit has no program counter and fetches nothing (R22): it takes the host's accesses one at
a time, in the order the host issued them, and completes each before it takes the next (R83, R84). With no
access waiting it does nothing (R371). -/
def step (s : State) : Host.Outcome State Fault Refusal :=
  match s.host with
  | [] => .next s
  | e :: rest => serve e { s with host := rest }

/-- The command word `w`, of `nbits` bits, placed where the next step takes its command from: as the write
of CMD that the host issues first. Nothing else changes (log entry 5). -/
def State.withFetchWord (s : State) (nbits w : Nat) : State :=
  { s with host := .write cmdOffset (BitVec.ofNat 32 (w % 2 ^ nbits)) :: s.host }

end Sys2Proof.Machine
end

