-- ==== Sys2Proof/Safety.lean ====
section
/-! DEFINITION. What a legal state is: the invariants that the spec gives for the time between two host
accesses (R65), with the ranges of the session fields and the hidden buffers (R30, R55 to R59, R320, R332). -/

namespace Sys2Proof

/-- The modes with a block cache (R56). -/
def Mode.caches : Mode → Bool
  | .ecb | .cbc => true
  | .none | .cfb | .ofb | .ctr | .xts | .cmac => false

/-- The modes with a keystream buffer (R57). -/
def Mode.streams : Mode → Bool
  | .cfb | .ofb | .ctr => true
  | .none | .ecb | .cbc | .xts | .cmac => false

end Sys2Proof

namespace Sys2Proof.Machine

/-- The port signals and the capacities are in the range that the spec gives them (R7). Outside it the spec
defines no unit. -/
def Ports.Legal (p : Ports) : Prop :=
  1 ≤ p.bs1 ∧ p.bs1 ≤ 16 ∧ 1 ≤ p.bs2 ∧ p.bs2 ≤ 16 ∧ 32 ≤ p.ibufCap ∧ 32 ≤ p.obufCap

/-- What holds between any two host accesses. -/
structure State.Inv (s : State) : Prop where
  /-- The parameters are in range (R7). -/
  ports : s.ports.Legal
  /-- No session: no direction and no block size (R65.1). -/
  idle : s.mode = .none → s.dir = .unset ∧ s.blockSize = 0
  /-- A session's block size is CB1's (R65.2; the range 1 to 16 is in `ports`). -/
  session : s.mode ≠ .none → s.blockSize = s.ports.bs1
  /-- CMAC has 8- or 16-byte blocks (R65.5). -/
  cmac : s.mode = .cmac → s.blockSize = 8 ∨ s.blockSize = 16
  /-- XTS has 16-byte blocks (R65.5). -/
  xts : s.mode = .xts → s.blockSize = 16
  /-- The segment is 1 to BLOCKSIZE bytes in CFB (R55). -/
  segCfb : s.mode = .cfb → 1 ≤ s.seg ∧ s.seg ≤ s.blockSize
  /-- There is no segment in another mode (R55, R65.1). -/
  segElse : s.mode ≠ .cfb → s.seg = 0
  /-- The cache is shorter than a block in ECB and CBC (R56, R65.3). -/
  cache : s.mode.caches = true → s.cache.length < s.blockSize
  /-- The cache is empty in another mode (R56, R65.1, R65.3). -/
  cacheElse : s.mode.caches = false → s.cache = []
  /-- The keystream is at most a block (R57, R65.4). -/
  ks : s.mode.streams = true → s.ks.length ≤ s.blockSize
  /-- The keystream is at most a segment in CFB (R57, R65.4). -/
  ksCfb : s.mode = .cfb → s.ks.length ≤ s.seg
  /-- The keystream is empty outside the stream modes (R57, R65.1). -/
  ksElse : s.mode.streams = false → s.ks = []
  /-- The feedback bytes are at most a segment (R58). -/
  fb : s.mode = .cfb → s.fb.length ≤ s.seg
  /-- Feedback and keystream bytes together are a segment, while there is keystream (R58). -/
  fbKs : s.mode = .cfb → s.ks ≠ [] → s.fb.length + s.ks.length = s.seg
  /-- With the keystream used up, FB holds a whole segment, or nothing if no byte was processed (R58). -/
  fbFull : s.mode = .cfb → s.ks = [] → s.fb = [] ∨ s.fb.length = s.seg
  /-- There are no feedback bytes outside CFB (R58, R65.1). -/
  fbElse : s.mode ≠ .cfb → s.fb = []
  /-- BYTECOUNT is a count modulo BLOCKSIZE in the stream modes (R59). -/
  byteCount : s.mode.streams = true → s.byteCount < s.blockSize
  /-- BYTECOUNT is 0 in the other modes (R59, R65.1). -/
  byteCountElse : s.mode.streams = false → s.byteCount = 0
  /-- In OFB and CTR, BYTECOUNT + len(KS) is 0 or BLOCKSIZE (R320). -/
  aligned : s.mode = .ofb ∨ s.mode = .ctr → (s.byteCount + s.ks.length) % s.blockSize = 0
  /-- The queues are within their capacities (R65.7). -/
  ibuf : s.ibuf.length ≤ s.ports.ibufCap
  /-- The queues are within their capacities (R65.7). -/
  obuf : s.obuf.length ≤ s.ports.obufCap
  /-- No error, no failed command (R65.8). -/
  errcmd : s.err = none → s.errcmd = 0
  /-- The unit never latches PaddingError (R332). -/
  noPaddingError : s.err ≠ some .paddingError
  /-- T is 0 but in XTS (R27, R180, R268). -/
  tweakElement : s.mode ≠ .xts → s.t = 0
  /-- The subkeys are 0 but in CMAC (R30, R180). -/
  subkeys : s.mode ≠ .cmac → s.subk1 = 0 ∧ s.subk2 = 0
  /-- Bytes BLOCKSIZE to 15 of the subkeys are 0 (R30). -/
  subkeyTails : s.mode = .cmac →
    (blk s.subk1 16).drop s.blockSize = zeros (16 - s.blockSize) ∧
      (blk s.subk2 16).drop s.blockSize = zeros (16 - s.blockSize)

end Sys2Proof.Machine
end

