-- ==== Sys2Proof/Certificates/Slice0/Obligations.lean ====
section
/-! DEFINITION. The statements for the provers. The first part names the values and the next states that the
spec's rules give, in closed form and without the model's loops; the second part states that the machine
computes them. -/

namespace Sys2Proof.Expected

open Sys2Proof.Machine

/-! ### Words -/

/-- The bits that a command word's format shows as 0, for a word whose OPC is not reserved (R111). -/
def zeroBits (w : Word) : Word :=
  if w &&& 0xFF#32 = 0x01#32 then 0xFFE0F000#32
  else if w &&& 0xFF#32 = 0x04#32 then 0xFFFFF800#32
  else if w &&& 0xFF#32 = 0x12#32 then 0xFFFFFE00#32
  else 0xFFFFFF00#32

/-- OPC is 0x09 to 0x0F or 0x13 to 0xFF (R119). -/
def ReservedOpcode (w : Word) : Prop :=
  (0x09#32 ≤ w &&& 0xFF#32 ∧ w &&& 0xFF#32 ≤ 0x0F#32) ∨ 0x13#32 ≤ w &&& 0xFF#32

/-- A reserved field value of INIT or FINAL (R120). -/
def ReservedField (bs1 : Nat) (w : Word) : Prop :=
  (w &&& 0xFF#32 = 0x01#32 ∧
    let mode := (w >>> 8) &&& 0xF#32
    let seg := (w >>> 16) &&& 0x1F#32
    mode = 0#32 ∨ 8#32 ≤ mode ∨ (mode ≠ 3#32 ∧ seg ≠ 0#32) ∨ (mode = 3#32 ∧ bs1 < seg.toNat)) ∨
  (w &&& 0xFF#32 = 0x04#32 ∧ 5#32 ≤ (w >>> 8) &&& 7#32)

/-- A word that is no command (R118, R119, R120). -/
def ReservedWord (bs1 : Nat) (w : Word) : Prop :=
  ReservedOpcode w ∨ w &&& zeroBits w ≠ 0#32 ∨ ReservedField bs1 w

/-! ### Accesses -/

/-- An access that the unit accepts, or the reset input (R72, R370). -/
def Accepted : HostEvent → Prop
  | .read off => off % 4 = 0 ∧ off < 0x100
  | .write off _ => off % 4 = 0 ∧ off < 0x100
  | .otherWidth _ _ _ => False
  | .resetInput => True

/-- The next access is a write of the word to CMD. -/
def Commands (s : State) (w : Word) : Prop := s.host.head? = some (.write 0x08 w)

/-- The next event resets the unit: the RESET command or the reset input (R370). -/
def Resets (s : State) : Prop := Commands s 0x08#32 ∨ s.host.head? = some .resetInput

/-- The next access is an INIT command of some mode. -/
def Initialises (s : State) : Prop := ∃ w, Commands s w ∧ w &&& 0xFF#32 = 0x01#32

/-- The next access is a command that runs the session's update: ENC, DEC or FINAL. -/
def Updates (s : State) : Prop :=
  ∃ w, Commands s w ∧ (w = 0x02#32 ∨ w = 0x03#32 ∨ w &&& 0xFF#32 = 0x04#32)

/-! ### Block registers -/

/-- The offset of word 0 of each block register (R23, R112). -/
def offsetOf : BlockReg → Nat
  | .iv => 0x40
  | .ctr => 0x50
  | .tweak => 0x60
  | .t => 0x70
  | .gfa => 0x80
  | .gfb => 0x90
  | .gfr => 0xA0
  | .subk1 => 0xB0
  | .subk2 => 0xC0

/-- What a block register holds: the field of its name (R23). -/
def contents (r : BlockReg) (s : State) : Block :=
  match r with
  | .iv => s.iv
  | .ctr => s.ctr
  | .tweak => s.tweak
  | .t => s.t
  | .gfa => s.gfa
  | .gfb => s.gfb
  | .gfr => s.gfr
  | .subk1 => s.subk1
  | .subk2 => s.subk2

/-- The state in which one block register holds `x`, all else as before. -/
def withContents (r : BlockReg) (x : Block) (s : State) : State :=
  match r with
  | .iv => { s with iv := x }
  | .ctr => { s with ctr := x }
  | .tweak => { s with tweak := x }
  | .t => { s with t := x }
  | .gfa => { s with gfa := x }
  | .gfb => { s with gfb := x }
  | .gfr => { s with gfr := x }
  | .subk1 => { s with subk1 := x }
  | .subk2 => { s with subk2 := x }

/-- Word k of a block register's value: bits 127-32k down to 96-32k (R76). -/
def wordOf (x : Block) (k : Nat) : Word := (x >>> (96 - 32 * k)).setWidth 32

/-- The next access is a host write of a word of the block register. -/
def HostWrites (s : State) (r : BlockReg) : Prop :=
  ∃ k < 4, ∃ v, s.host.head? = some (.write (offsetOf r + 4 * k) v)

/-! ### The fields of STATUS -/

/-- The number of a mode (R52). -/
def modeNumber : Mode → Nat
  | .none => 0
  | .ecb => 1
  | .cbc => 2
  | .cfb => 3
  | .ofb => 4
  | .ctr => 5
  | .xts => 6
  | .cmac => 7

/-- The number of a direction (R43). -/
def directionNumber : Direction → Nat
  | .unset => 0
  | .encrypting => 1
  | .decrypting => 2

/-- The code of an error, 0 for none (R330). -/
def errorNumber : Option ErrorKind → Nat
  | none => 0
  | some .invalidKeyLength => 1
  | some .missingParameter => 2
  | some .invalidIVLength => 3
  | some .unsupportedBlockSize => 4
  | some .inputTooShort => 5
  | some .inputTooLong => 6
  | some .directionConflict => 7
  | some .paddingError => 8
  | some .illegalCommand => 9
  | some .bufferOverflow => 10

/-! ### Errors -/

/-- The state in which an error is latched with the word that failed, all else as before (R333). -/
def failed (k : ErrorKind) (w : Word) (s : State) : State := { s with err := some k, errcmd := w }

/-- The mode of an INIT command. -/
def initMode : Instr → Option Mode
  | .initEcb => some .ecb
  | .initCbc => some .cbc
  | .initCfb _ => some .cfb
  | .initOfb => some .ofb
  | .initCtr => some .ctr
  | .initXts => some .xts
  | .initCmac => some .cmac
  | _ => Option.none

/-- The FINAL command of a padding scheme. -/
def finalInstr : PadScheme → Instr
  | .bitPadding => .finalBitPadding
  | .zerosPadding => .finalZerosPadding
  | .pkcs7 => .finalPkcs7
  | .ansiX923 => .finalAnsiX923
  | .iso10126 => .finalIso10126

/-- The error kinds that a command can latch (R331). -/
def mayLatch : Instr → ErrorKind → Prop
  | .initEcb, k | .initCbc, k | .initCfb _, k | .initOfb, k | .initCtr, k | .initXts, k | .initCmac, k =>
    k = .invalidKeyLength ∨ k = .missingParameter ∨ k = .invalidIVLength ∨ k = .unsupportedBlockSize ∨
      k = .illegalCommand
  | .enc, k | .dec, k =>
    k = .inputTooShort ∨ k = .inputTooLong ∨ k = .directionConflict ∨ k = .illegalCommand ∨
      k = .bufferOverflow
  | .finalBitPadding, k | .finalZerosPadding, k | .finalPkcs7, k | .finalAnsiX923, k | .finalIso10126, k =>
    k = .illegalCommand ∨ k = .bufferOverflow
  | _, _ => False

/-! ### Sessions -/

/-- The state after a successful INIT of a mode that adds nothing to the common effects (R180). -/
def newSession (m : Mode) (s : State) : State :=
  { s with
    mode := m, blockSize := s.ports.bs1, dir := .unset, seg := 0, cache := [], ks := [], fb := [],
    byteCount := 0, t := 0, subk1 := 0, subk2 := 0 }

/-- The command of a direction. -/
def cryptInstr (d : Direction) : Instr := if d = .decrypting then .dec else .enc

/-- A direction that ENC or DEC asks for. -/
def Asked (d : Direction) : Prop := d = .encrypting ∨ d = .decrypting

/-- The direction lock lets `d` pass (R206). -/
def Unlocked (d : Direction) (s : State) : Prop := s.dir = .unset ∨ s.dir = d

/-- There is room in OBUF for n more bytes (R202). -/
def Room (n : Nat) (s : State) : Prop := s.obuf.length + n ≤ s.ports.obufCap

/-- Block i of a buffer, counting from 0. -/
def blockAt (bs : Nat) (buf : Bytes) (i : Nat) : Bytes := (buf.drop (bs * i)).take bs

/-- What CACHE holds once the input is appended, before blocks are taken (R210). -/
def cached (s : State) : Bytes := s.cache ++ s.ibuf

/-- The number of full blocks of a buffer (R210). -/
def blockCount (s : State) : Nat := (cached s).length / s.blockSize

/-- What is left in CACHE (R210). -/
def cacheRest (s : State) : Bytes := (cached s).drop (s.blockSize * blockCount s)

/-! ### ECB and CBC -/

/-- The codebook function of a direction: E1 or D1 (R211, R265). -/
def codebook (d : Direction) (x : Bytes) : Bytes :=
  if d = .decrypting then Config.env.d1 x else Config.env.e1 x

/-- The event of a call of it. -/
def codebookCall (d : Direction) (x : Bytes) : Event := if d = .decrypting then .d1 x else .e1 x

/-- The state after a successful ENC or DEC in ECB (R202, R211). -/
def afterEcb (d : Direction) (s : State) : State :=
  let block := blockAt s.blockSize (cached s)
  { s with
    dir := d
    ibuf := []
    cache := cacheRest s
    obuf := s.obuf ++ (List.range (blockCount s)).flatMap (fun i => codebook d (block i))
    events := s.events ++ (List.range (blockCount s)).map (fun i => codebookCall d (block i)) }

/-- The chaining value that block i is combined with when encrypting in CBC: the IV, then the ciphertext of
the block before (R214). -/
def cbcChain (bs : Nat) (iv buf : Bytes) : Nat → Bytes
  | 0 => iv
  | i + 1 => Config.env.e1 (xorBytes (blockAt bs buf i) (cbcChain bs iv buf i))

/-- The state after a successful ENC in CBC (R202, R214). -/
def afterCbcEncrypt (s : State) : State :=
  let chain := cbcChain s.blockSize (blk s.iv s.blockSize) (cached s)
  let n := blockCount s
  { s with
    dir := .encrypting
    ibuf := []
    cache := cacheRest s
    iv := setblk s.iv (chain n)
    obuf := s.obuf ++ (List.range n).flatMap (fun i => chain (i + 1))
    events := s.events ++
      (List.range n).map (fun i => .e1 (xorBytes (blockAt s.blockSize (cached s) i) (chain i))) }

/-- The value that block i is combined with when decrypting in CBC: the IV, then the input block before
(R215). -/
def cbcPrevious (bs : Nat) (iv buf : Bytes) : Nat → Bytes
  | 0 => iv
  | i + 1 => blockAt bs buf i

/-- The state after a successful DEC in CBC (R202, R215). -/
def afterCbcDecrypt (s : State) : State :=
  let block := blockAt s.blockSize (cached s)
  let previous := cbcPrevious s.blockSize (blk s.iv s.blockSize) (cached s)
  let n := blockCount s
  { s with
    dir := .decrypting
    ibuf := []
    cache := cacheRest s
    iv := setblk s.iv (previous n)
    obuf := s.obuf ++ (List.range n).flatMap (fun i => xorBytes (Config.env.d1 (block i)) (previous i))
    events := s.events ++ (List.range n).map (fun i => .d1 (block i)) }

/-! ### The stream modes -/

/-- The number of codebook calls of a stream update that takes n bytes with k bytes of keystream at hand and
a refill of r bytes (R231). -/
def callCount (n k r : Nat) : Nat := if n ≤ k then 0 else (n - k + r - 1) / r

/-- The running value of OFB after j refills: E1 applied j times (R240). -/
def ofbValue (iv : Bytes) : Nat → Bytes
  | 0 => iv
  | j + 1 => Config.env.e1 (ofbValue iv j)

/-- The state after a successful ENC or DEC in OFB (R202, R232, R240). -/
def afterOfb (d : Direction) (s : State) : State :=
  let n := s.ibuf.length
  let calls := callCount n s.ks.length s.blockSize
  let value := ofbValue (blk s.iv s.blockSize)
  let stream := s.ks ++ (List.range calls).flatMap (fun j => value (j + 1))
  { s with
    dir := d
    ibuf := []
    iv := setblk s.iv (value calls)
    ks := stream.drop n
    byteCount := (s.byteCount + n) % s.blockSize
    obuf := s.obuf ++ xorBytes s.ibuf stream
    events := s.events ++ (List.range calls).map (fun j => .e1 (value j)) }

/-- The counter block that is j increments on: the low-order BLOCKSIZE bytes, big-endian (R243). -/
def counterAt (s : State) (j : Nat) : Bytes :=
  int2be ((s.ctr + BitVec.ofNat 128 j).toNat % 256 ^ s.blockSize) s.blockSize

/-- The state after a successful ENC or DEC in CTR (R202, R232, R244). -/
def afterCtr (d : Direction) (s : State) : State :=
  let n := s.ibuf.length
  let calls := callCount n s.ks.length s.blockSize
  let stream := s.ks ++ (List.range calls).flatMap (fun j => Config.env.e1 (counterAt s j))
  { s with
    dir := d
    ibuf := []
    ctr := s.ctr + BitVec.ofNat 128 calls
    ks := stream.drop n
    byteCount := (s.byteCount + n) % s.blockSize
    obuf := s.obuf ++ xorBytes s.ibuf stream
    events := s.events ++ (List.range calls).map (fun j => .e1 (counterAt s j)) }

/-- The state after a successful ENC or DEC in CFB whose input lies within one segment: `stream` is the
keystream of the segment from the first byte of the input on, `before` the feedback bytes already there
(R202, R232, R236). -/
def afterCfb (d : Direction) (stream before : Bytes) (calls : List Event) (s : State) : State :=
  let n := s.ibuf.length
  let out := xorBytes s.ibuf stream
  let feedback := before ++ (if d = .decrypting then s.ibuf else out)
  { s with
    dir := d
    ibuf := []
    iv := if n = stream.length then setblk s.iv ((blk s.iv s.blockSize).drop s.seg ++ feedback) else s.iv
    ks := stream.drop n
    fb := feedback
    byteCount := (s.byteCount + n) % s.blockSize
    obuf := s.obuf ++ out
    events := s.events ++ calls }

/-! ### XTS -/

/-- The tweak block: the first TWEAKLEN bytes of TWEAK (16 for 16 to 31), padded on the right (R262). -/
def tweakBytes (s : State) : Bytes :=
  (blk s.tweak 16).take s.tweakLen.toNat ++ List.replicate (16 - s.tweakLen.toNat) 0

/-- The tweak of block i: T0 times 2^i in GF(2^128) (R262, R264). -/
def tweakAt (s : State) (i : Nat) : Block :=
  gf2pow128mul (BitVec.ofNat 128 (le2int (Config.env.e2 (tweakBytes s)))) (gf2pow128powof2 i)

/-- The input of the codebook for a block under a tweak (R265). -/
def xtsInput (t : Block) (x : Bytes) : Bytes := xorBytes x (int2le t.toNat 16)

/-- A block of XTS: `f(X xor mask) xor mask` (R265). -/
def xtsOutput (d : Direction) (t : Block) (x : Bytes) : Bytes :=
  xorBytes (codebook d (xtsInput t x)) (int2le t.toNat 16)

/-- The state after a successful ENC or DEC in XTS of a whole number of blocks (R202, R266, R268). -/
def afterXtsWhole (d : Direction) (s : State) : State :=
  let m := s.ibuf.length / 16
  let block := blockAt 16 s.ibuf
  { s with
    dir := d
    ibuf := []
    t := tweakAt s m
    obuf := s.obuf ++ (List.range m).flatMap (fun q => xtsOutput d (tweakAt s q) (block q))
    events := s.events ++ .e2 (tweakBytes s) ::
      (List.range m).map (fun q => codebookCall d (xtsInput (tweakAt s q) (block q))) }

/-- The state after a successful ENC or DEC in XTS with ciphertext stealing: m blocks and a tail (R202,
R266, R268). -/
def afterXtsSteal (d : Direction) (s : State) : State :=
  let m := s.ibuf.length / 16
  let b := s.ibuf.length % 16
  let block := blockAt 16 s.ibuf
  let ta := if d = .decrypting then tweakAt s m else tweakAt s (m - 1)
  let tb := if d = .decrypting then tweakAt s (m - 1) else tweakAt s m
  let pp := xtsOutput d ta (block (m - 1))
  let cc := block m ++ pp.drop b
  { s with
    dir := d
    ibuf := []
    t := tweakAt s m
    obuf := s.obuf ++ (List.range (m - 1)).flatMap (fun q => xtsOutput d (tweakAt s q) (block q)) ++
      xtsOutput d tb cc ++ pp.take b
    events := s.events ++ .e2 (tweakBytes s) ::
      (List.range (m - 1)).map (fun q => codebookCall d (xtsInput (tweakAt s q) (block q))) ++
      [codebookCall d (xtsInput ta (block (m - 1))), codebookCall d (xtsInput tb cc)] }

/-! ### CMAC -/

/-- The chaining value of CMAC after i chunks (R284). -/
def cmacChainValue (bs : Nat) (data : Bytes) : Nat → Bytes
  | 0 => List.replicate bs 0
  | i + 1 => Config.env.e1 (xorBytes (cmacChainValue bs data i) (blockAt bs data i))

/-- The number of chunks before the last one (R284). -/
def cmacChained (n bs : Nat) : Nat := (n - 1) / bs

/-- The input of the last codebook call of CMAC (R284). -/
def cmacFinalInput (s : State) : Bytes :=
  let bs := s.blockSize
  let i := cmacChained s.ibuf.length bs
  let last := s.ibuf.drop (bs * i)
  xorBytes (cmacChainValue bs s.ibuf i)
    (if last.length = bs then xorBytes last (blk s.subk1 bs)
      else xorBytes (last ++ 0x80#8 :: List.replicate (bs - last.length - 1) 0) (blk s.subk2 bs))

/-- The state after a successful ENC in CMAC (R202, R284). -/
def afterCmac (s : State) : State :=
  let i := cmacChained s.ibuf.length s.blockSize
  { s with
    dir := .encrypting
    ibuf := []
    obuf := s.obuf ++ Config.env.e1 (cmacFinalInput s)
    events := s.events ++ (List.range i).map (fun j =>
        .e1 (xorBytes (cmacChainValue s.blockSize s.ibuf j) (blockAt s.blockSize s.ibuf j))) ++
      [.e1 (cmacFinalInput s)] }

/-! ### FINAL -/

/-- The bytes that RND delivers on the next n draws of a state (R64, R306). -/
def nextDraws (n : Nat) (s : State) : Bytes := (List.range n).map (fun j => Config.env.rnd (s.draws + j))

/-- The number of draws of FINAL with r bytes in the last block (R306). -/
def drawCount (p : PadScheme) (r bs : Nat) : Nat := if p = .iso10126 then bs - r - 1 else 0

/-- The padding of a string with r bytes in its last block, r < bs (R302 to R306 in the form of R307). -/
def padding (p : PadScheme) (r bs : Nat) (s : State) : Bytes :=
  match p with
  | .bitPadding => 0x80#8 :: List.replicate (bs - r - 1) 0
  | .zerosPadding => if r = 0 then [] else List.replicate (bs - r) 0
  | .pkcs7 => List.replicate (bs - r) (BitVec.ofNat 8 (bs - r))
  | .ansiX923 => List.replicate (bs - r - 1) 0 ++ [BitVec.ofNat 8 (bs - r)]
  | .iso10126 => nextDraws (bs - r - 1) s ++ [BitVec.ofNat 8 (bs - r)]

/-- The state with the draws of FINAL made (R306). -/
def drawn (p : PadScheme) (r : Nat) (s : State) : State :=
  let n := drawCount p r s.blockSize
  { s with draws := s.draws + n, events := s.events ++ (nextDraws n s).map .draw }

/-- The length that FINAL pads from (R318, R320). -/
def paddedFrom (s : State) : Nat := if s.mode.caches then s.cache.length else s.byteCount

/-- The number of bytes that FINAL appends to OBUF: outlen of the number of padding bytes (R204, R317). In ECB
and CBC that is one block, and nothing for zerosPadding of an empty cache (R318). -/
def finalLength (p : PadScheme) (s : State) : Nat :=
  if s.mode.caches then (if p = .zerosPadding ∧ s.cache = [] then 0 else s.blockSize)
  else (padding p (paddedFrom s) s.blockSize s).length

/-- The state in which FINAL's padding stands as the input of an ENC, in place of IBUF (R317, R323). -/
def paddingAsInput (p : PadScheme) (s : State) : State :=
  { drawn p (paddedFrom s) s with ibuf := padding p (paddedFrom s) s.blockSize s }

/-- The state after FINAL in ECB or CBC with `last` the padded block (R318). -/
def afterFinalBlock (p : PadScheme) (s : State) : State :=
  let s' := drawn p s.cache.length s
  let last := s.cache ++ padding p s.cache.length s.blockSize s
  let x := if s.mode = .cbc then xorBytes last (blk s.iv s.blockSize) else last
  { s' with
    cache := []
    iv := if s.mode = .cbc then setblk s.iv (Config.env.e1 x) else s.iv
    obuf := s.obuf ++ Config.env.e1 x
    events := s'.events ++ [.e1 x] }

end Sys2Proof.Expected

/-! ## The statements

The waiting accesses, the replies and the event history that the statements speak of are the model's own fields
(log entries 5 and 9), and so is the place of the port signals in the state (log entry 1). Where a docstring
calls a law the spec's inference, the spec marks it as derived from other rules. -/

section
open Sys2Proof Sys2Proof.Machine Sys2Proof.Expected

/-! ### The command words -/

/-- R111 to R117, R126: every field of every command survives encoding and decoding. -/
def Obligations.DecodeOfEncodeIsTheCommand : Prop :=
  ∀ (bs1 : Nat) (i : Instr), wellFormed bs1 i = true → decode bs1 (encode i) = .command i

/-- R126: each word that is a command is the word of that one command, with legal operands. So the word
that ERRCMD takes from a failing command is the word the host wrote (R44, R334). -/
def Obligations.EncodeOfDecodeIsTheWord : Prop :=
  ∀ (bs1 : Nat) (w : Word) (i : Instr), decode bs1 w = .command i → encode i = w ∧ wellFormed bs1 i = true

/-- R118, R119, R120: a word is no command exactly when it has a reserved opcode, a reserved bit set or a
reserved field value. -/
def Obligations.IllegalWordsAreTheReservedOnes : Prop :=
  ∀ (bs1 : Nat) (w : Word), (∃ r, decode bs1 w = .illegal r) ↔ ReservedWord bs1 w

/-- A word of each command, as R113 and R115 to R117 give it, decodes to that command. -/
def Obligations.SampleWordsDecode : Prop :=
  decode 16 0x00000000#32 = .command .nop ∧ decode 16 0x00000101#32 = .command .initEcb ∧
  decode 16 0x00000201#32 = .command .initCbc ∧ decode 16 0x00040301#32 = .command (.initCfb 4) ∧
  decode 16 0x00000401#32 = .command .initOfb ∧ decode 16 0x00000501#32 = .command .initCtr ∧
  decode 16 0x00000601#32 = .command .initXts ∧ decode 16 0x00000701#32 = .command .initCmac ∧
  decode 16 0x00000002#32 = .command .enc ∧ decode 16 0x00000003#32 = .command .dec ∧
  decode 16 0x00000004#32 = .command .finalBitPadding ∧
  decode 16 0x00000104#32 = .command .finalZerosPadding ∧ decode 16 0x00000204#32 = .command .finalPkcs7 ∧
  decode 16 0x00000304#32 = .command .finalAnsiX923 ∧ decode 16 0x00000404#32 = .command .finalIso10126 ∧
  decode 16 0x00000005#32 = .command .flushi ∧ decode 16 0x00000006#32 = .command .flusho ∧
  decode 16 0x00000007#32 = .command .clrerr ∧ decode 16 0x00000008#32 = .command .reset ∧
  decode 16 0x00000010#32 = .command .gfmul ∧ decode 16 0x00000011#32 = .command .gfpow2 ∧
  decode 16 0x00000012#32 = .command .gfdbl ∧ decode 16 0x00000112#32 = .command .gfdbl64

/-! ### Steps -/

/-- R110 (the list of accesses: log entry 5): when an unblocked word in the next write of CMD decodes to a
command, the step is exec of that command, the access taken from the host's list. -/
def Obligations.StepRunsTheDecodedCommand : Prop :=
  ∀ (s : State) (w : Word) (rest : List HostEvent) (i : Instr),
    s.host = .write 0x08 w :: rest → (s.err = none ∨ w = 0x07#32 ∨ w = 0x08#32) →
    decode s.ports.bs1 w = .command i → step s = exec i { s with host := rest }

/-- R118, R119, R120: with no error latched, a reserved word raises IllegalCommand and does nothing else. -/
def Obligations.ReservedWordRaisesIllegalCommand : Prop :=
  ∀ (s : State) (w : Word) (rest : List HostEvent),
    s.host = .write 0x08 w :: rest → s.err = none → ReservedWord s.ports.bs1 w →
    step s = .next (failed .illegalCommand w { s with host := rest })

/-- R335: with an error latched, a word other than exactly CLRERR or RESET is ignored; pushes, pops, reads
and register writes work as they do with no error. -/
def Obligations.LatchedErrorBlocksCommandsOnly : Prop :=
  (∀ (s : State) (w : Word) (rest : List HostEvent),
    s.host = .write 0x08 w :: rest → s.err ≠ none → w ≠ 0x07#32 → w ≠ 0x08#32 →
    step s = .next { s with host := rest }) ∧
  (∀ (s : State) (off : Nat) (v : Word) (rest : List HostEvent) (k : Option ErrorKind) (c : Word),
    s.host = .write off v :: rest → off % 4 = 0 → off < 0x100 → off ≠ 0x08 →
    (off = 0x20 → s.ibuf.length < s.ports.ibufCap) →
    ∃ s', step s = .next s' ∧ step { s with err := k, errcmd := c } = .next { s' with err := k, errcmd := c }) ∧
  (∀ (s : State) (off : Nat) (rest : List HostEvent) (k : Option ErrorKind) (c : Word),
    s.host = .read off :: rest → off % 4 = 0 → off < 0x100 → off ≠ 0x0C → off ≠ 0x10 →
    ∃ s', step s = .next s' ∧ step { s with err := k, errcmd := c } = .next { s' with err := k, errcmd := c })

/-- R83, R84: every access that the unit accepts completes, is the only one taken, and leaves the port
signals as they were (R381). That the accesses wait in a list and the signals stand in the state is the model's
choice (log entries 5 and 1). -/
def Obligations.EveryAcceptedAccessCompletes : Prop :=
  ∀ (s : State) (e : HostEvent) (rest : List HostEvent), s.host = e :: rest → Accepted e →
    ∃ s', step s = .next s' ∧ s'.host = rest ∧ s'.ports = s.ports

/-- R72, R73: an access of another width or at a misaligned offset is refused (log entry 7); that an aligned
one beyond the register space faults is the model's choice (log entry 8). R371: with no access the unit does
nothing. -/
def Obligations.OtherAccessesStop : Prop :=
  (∀ (s : State) (b : Bool) (n off : Nat) (rest : List HostEvent), s.host = .otherWidth b n off :: rest →
    step s = .refused .busErrorWidth) ∧
  (∀ (s : State) (off : Nat) (v : Word) (rest : List HostEvent), off % 4 ≠ 0 →
    (s.host = .read off :: rest ∨ s.host = .write off v :: rest) → step s = .refused .busErrorMisaligned) ∧
  (∀ (s : State) (off : Nat) (v : Word) (rest : List HostEvent), off % 4 = 0 → 0x100 ≤ off →
    (s.host = .read off :: rest ∨ s.host = .write off v :: rest) → step s = .fault .outsideRegisterSpace) ∧
  (∀ s : State, s.host = [] → step s = .next s)

/-- R333, R334: an error is precise. The state after a failing access is the state before it, the access
taken, plus the latch; ERRCMD holds the command word that failed, or 0xFFFFFFFF for a push. -/
def Obligations.ErrorsArePrecise : Prop :=
  ∀ (s s' : State) (k : ErrorKind), step s = .next s' → s.err = none → s'.err = some k →
    s' = failed k s'.errcmd { s with host := s.host.tail } ∧
    (Commands s s'.errcmd ∨
      (s'.errcmd = 0xFFFFFFFF#32 ∧ k = .bufferOverflow ∧ ∃ v, s.host.head? = some (.write 0x20 v)))

/-- R44, R341: a latched error and its word stay until CLRERR or reset, which clear both. -/
def Obligations.LatchedErrorStays : Prop :=
  ∀ (s s' : State) (k : ErrorKind), step s = .next s' → s.err = some k →
    (s'.err = some k ∧ s'.errcmd = s.errcmd ∧ ¬ Commands s 0x07#32 ∧ ¬ Resets s) ∨
    (s'.err = none ∧ s'.errcmd = 0 ∧ (Commands s 0x07#32 ∨ Resets s))

/-- Which command latches which error (the spec's inference in R331); none latches PaddingError (R332). -/
def Obligations.CommandsRaiseOnlyTheirErrors : Prop :=
  ∀ (i : Instr) (s s' : State) (k : ErrorKind), exec i s = .next s' → s.err = none → s'.err = some k →
    mayLatch i k

/-- R203, R206: DIR leaves Unset only by a successful ENC or DEC, and is unset again only by INIT or reset. -/
def Obligations.DirectionChangesByRuleOnly : Prop :=
  ∀ s s' : State, step s = .next s' → s'.dir ≠ s.dir →
    (s.dir = .unset ∧ s'.dir = .encrypting ∧ Commands s 0x02#32 ∧ s'.err = none) ∨
    (s.dir = .unset ∧ s'.dir = .decrypting ∧ Commands s 0x03#32 ∧ s'.err = none) ∨
    (s'.dir = .unset ∧ (Initialises s ∨ Resets s))

/-- R24 to R30: who writes each block register. -/
def Obligations.BlockRegistersHaveTheirWritersOnly : Prop :=
  ∀ s s' : State, step s = .next s' → ¬ Resets s →
    (s'.iv ≠ s.iv → HostWrites s .iv ∨
      (Updates s ∧ (s.mode = .cbc ∨ s.mode = .cfb ∨ s.mode = .ofb))) ∧
    (s'.ctr ≠ s.ctr → HostWrites s .ctr ∨ (Updates s ∧ s.mode = .ctr)) ∧
    (s'.tweak ≠ s.tweak → HostWrites s .tweak) ∧
    (s'.t ≠ s.t → Initialises s ∨ (Updates s ∧ s.mode = .xts)) ∧
    (s'.gfa ≠ s.gfa → HostWrites s .gfa) ∧
    (s'.gfb ≠ s.gfb → HostWrites s .gfb) ∧
    (s'.gfr ≠ s.gfr → ∃ w, Commands s w ∧ (w = 0x10#32 ∨ w = 0x11#32 ∨ w = 0x12#32 ∨ w = 0x112#32)) ∧
    (s'.subk1 ≠ s.subk1 → Initialises s) ∧
    (s'.subk2 ≠ s.subk2 → Initialises s)

/-- R14, R64 (the history: log entry 9): the event history only grows; only INIT CMAC, ENC, DEC and FINAL call
a codebook or draw, and the draws are those the history records. -/
def Obligations.HistoryOnlyGrows : Prop :=
  ∀ s s' : State, step s = .next s' →
    ∃ l : List Event, s'.events = s.events ++ l ∧
      (l ≠ [] → Updates s ∨ Commands s 0x701#32) ∧
      s'.draws = s.draws + (l.filter (fun e => match e with | .draw _ => true | _ => false)).length

/-! ### The host port -/

/-- R86: a push of DIN, into a queue with room and into a full one. -/
def Obligations.DinPushAppendsOrDrops : Prop :=
  ∀ (s : State) (v : Word) (rest : List HostEvent), s.host = .write 0x20 v :: rest →
    step s = .next
      (if s.ibuf.length < s.ports.ibufCap then { s with host := rest, ibuf := s.ibuf ++ [v.extractLsb' 0 8] }
        else if s.err = none then failed .bufferOverflow 0xFFFFFFFF#32 { s with host := rest }
        else { s with host := rest })

/-- R87: a read of DOUT pops the oldest byte, or returns EMPTY and pops nothing. -/
def Obligations.DoutPopReturnsTheOldestByte : Prop :=
  ∀ (s : State) (rest : List HostEvent), s.host = .read 0x24 :: rest →
    step s = .next
      (if s.obuf = [] then { s with host := rest, replies := s.replies ++ [0x80000000#32] }
        else { s with
          host := rest
          obuf := s.obuf.tail
          replies := s.replies ++ [BitVec.ofNat 32 (s.obuf.headD 0).toNat] })

/-- R75: a read at every other offset has no side effect: it returns a value and changes nothing. -/
def Obligations.ReadsHaveNoSideEffect : Prop :=
  ∀ (s : State) (off : Nat) (rest : List HostEvent), s.host = .read off :: rest → off % 4 = 0 → off < 0x100 →
    off ≠ 0x24 → ∃ v, step s = .next { s with host := rest, replies := s.replies ++ [v] }

/-- R76, at the offsets of R23: a read of word k of a block register returns bits 127-32k down to 96-32k, which
are bytes 4k to 4k+3, byte 4k in bits 31:24. -/
def Obligations.BlockRegisterWordsAreBigEndian : Prop :=
  ∀ (s : State) (r : BlockReg) (k : Nat) (rest : List HostEvent), k < 4 →
    s.host = .read (offsetOf r + 4 * k) :: rest →
    step s = .next { s with host := rest, replies := s.replies ++ [wordOf (contents r s) k] } ∧
    wordOf (contents r s) k = BitVec.ofNat 32 (be2int (((blk (contents r s) 16).drop (4 * k)).take 4))

/-- R23, R77, R80: a write of word k of a writable block register replaces those 32 bits and leaves the
other words and all other state; one to a read-only block register is ignored. -/
def Obligations.BlockRegisterWordWrite : Prop :=
  ∀ (s : State) (r : BlockReg) (k : Nat) (v : Word) (rest : List HostEvent), k < 4 →
    s.host = .write (offsetOf r + 4 * k) v :: rest →
    ((r = .t ∨ r = .gfr ∨ r = .subk1 ∨ r = .subk2) → step s = .next { s with host := rest }) ∧
    ((r = .iv ∨ r = .ctr ∨ r = .tweak ∨ r = .gfa ∨ r = .gfb) →
      ∃ x : Block, step s = .next (withContents r x { s with host := rest }) ∧
        ∀ j < 4, wordOf x j = if j = k then v else wordOf (contents r s) j)

/-- R43, R45, with the numbers of R52 and R330: ERR, MODE and DIR of STATUS, and in a legal state the other
fields of STATUS and those of BUFSTAT, each at its bits, with 0 between them. -/
def Obligations.StatusAndBufstatFields : Prop :=
  ∀ (s : State) (rest : List HostEvent),
    (s.host = .read 0x0C :: rest → ∃ v : Word,
      step s = .next { s with host := rest, replies := s.replies ++ [v] } ∧
      v.toNat % 2 ^ 4 = errorNumber s.err ∧ v.toNat / 2 ^ 4 % 2 ^ 4 = modeNumber s.mode ∧
      v.toNat / 2 ^ 8 % 2 ^ 8 = directionNumber s.dir ∧
      (s.Inv → v.toNat / 2 ^ 16 % 2 ^ 8 = s.blockSize ∧ v.toNat / 2 ^ 24 = s.seg)) ∧
    (s.host = .read 0x14 :: rest → s.Inv →
      step s = .next { s with host := rest, replies := s.replies ++ [BitVec.ofNat 32
        (s.cache.length + 2 ^ 8 * s.ks.length + 2 ^ 16 * s.fb.length + 2 ^ 24 * s.byteCount)] } ∧
      s.cache.length < 2 ^ 5 ∧ s.ks.length < 2 ^ 5 ∧ s.fb.length < 2 ^ 5 ∧ s.byteCount < 2 ^ 5)

/-- R40, R41, R44, R46 to R49: the values that reads of the other control registers return. -/
def Obligations.ControlRegisterReads : Prop :=
  ∀ (s : State) (off : Nat) (v : Word) (rest : List HostEvent), s.host = .read off :: rest →
    ((off = 0x00 ∧ v = 0x43500100#32) ∨
      (off = 0x04 ∧ s.ports.Legal ∧ v.toNat =
        s.ports.bs1 + (if s.ports.keyOk1 then 2 ^ 7 else 0) + 2 ^ 8 * s.ports.bs2 +
          (if s.ports.keyOk2 then 2 ^ 15 else 0) + 2 ^ 16 * s.ports.keyLen1.toNat +
          2 ^ 24 * s.ports.keyLen2.toNat) ∨
      (off = 0x10 ∧ v = s.errcmd) ∨
      (off = 0x18 ∧ s.ibuf.length < 2 ^ 32 ∧ v.toNat = s.ibuf.length) ∨
      (off = 0x1C ∧ s.obuf.length < 2 ^ 32 ∧ v.toNat = s.obuf.length) ∨
      (off = 0x28 ∧ v = s.xtsMax) ∨
      (off = 0x2C ∧ v.toNat =
        s.ivLen.toNat + 2 ^ 8 * s.tweakLen.toNat + (if s.ctrSet then 2 ^ 16 else 0)) ∨
      (off = 0x30 ∧ v = s.gfn) ∨
      ((off = 0x08 ∨ off = 0x20 ∨ off = 0x34 ∨ off = 0x38 ∨ off = 0x3C ∨
        (0xD0 ≤ off ∧ off < 0x100 ∧ off % 4 = 0)) ∧ v = 0)) →
    step s = .next { s with host := rest, replies := s.replies ++ [v] }

/-- R46, R47, R48, R74, R80, R81: a write of XTSMAX or GFN stores the value, one of PARAM replaces its three
fields and drops the reserved bits, and one to a read-only control register or a reserved offset is
ignored. -/
def Obligations.ControlRegisterWrites : Prop :=
  ∀ (s : State) (off : Nat) (v : Word) (rest : List HostEvent), s.host = .write off v :: rest →
    (off = 0x28 → step s = .next { s with host := rest, xtsMax := v }) ∧
    (off = 0x30 → step s = .next { s with host := rest, gfn := v }) ∧
    (off = 0x2C → ∃ (i t : BitVec 5) (c : Bool),
      step s = .next { s with host := rest, ivLen := i, tweakLen := t, ctrSet := c } ∧
      i.toNat = v.toNat % 32 ∧ t.toNat = v.toNat / 2 ^ 8 % 32 ∧ c.toNat = v.toNat / 2 ^ 16 % 2) ∧
    ((off ∈ [0x00, 0x04, 0x0C, 0x10, 0x14, 0x18, 0x1C, 0x24, 0x34, 0x38, 0x3C] ∨
      (0xD0 ≤ off ∧ off < 0x100 ∧ off % 4 = 0)) → step s = .next { s with host := rest })

/-- R75: a write at every offset but CMD and DIN is idempotent. -/
def Obligations.PlainWritesAreIdempotent : Prop :=
  ∀ (s : State) (off : Nat) (v : Word) (rest : List HostEvent), off % 4 = 0 → off < 0x100 → off ≠ 0x08 →
    off ≠ 0x20 → ∃ s',
      Host.Core.run Sys2Proof.core 1 { s with host := .write off v :: rest } = .next s' ∧
      Host.Core.run Sys2Proof.core 2 { s with host := .write off v :: .write off v :: rest } = .next s'

/-- R88, R125: LDBLK then RDBLK. The register holds the string, padded on the right with 0x00, and the four
words read back are its bytes in order. -/
def Obligations.LoadedBlockReadsBack : Prop :=
  ∀ (s : State) (r : BlockReg) (b : Bytes) (rest : List HostEvent), r.writable = true → b.length ≤ 16 →
    ∃ (x : Block) (words : List Word),
      Host.Core.run Sys2Proof.core 8 { s with host := loadBlockLine r b ++ readBlockLine r ++ rest } =
        .next { withContents r x { s with host := rest } with replies := s.replies ++ words } ∧
      blk x 16 = b ++ List.replicate (16 - b.length) 0 ∧
      words.flatMap (fun w => int2be w.toNat 4) = b ++ List.replicate (16 - b.length) 0

/-! ### Reset and the invariants -/

/-- R66: the reset values, and what the read-only registers then read. CAP shows the port signals, whose
values there are the model's choice (log entry 1). -/
def Obligations.ResetValues : Prop :=
  (∀ r : BlockReg, contents r State.reset = 0) ∧ State.reset.xtsMax = 0x08000000#32 ∧
  paramWord State.reset = 0 ∧ State.reset.gfn = 0 ∧ State.reset.mode = .none ∧ State.reset.dir = .unset ∧
  State.reset.blockSize = 0 ∧ State.reset.seg = 0 ∧ State.reset.byteCount = 0 ∧ State.reset.cache = [] ∧
  State.reset.ks = [] ∧ State.reset.fb = [] ∧ State.reset.ibuf = [] ∧ State.reset.obuf = [] ∧
  State.reset.err = none ∧ State.reset.errcmd = 0 ∧
  slotValue .id State.reset = 0x43500100#32 ∧ slotValue .cap State.reset = capWord State.reset.ports ∧
  slotValue .status State.reset = 0 ∧ slotValue .errcmd State.reset = 0 ∧ slotValue .bufstat State.reset = 0 ∧
  slotValue .ilevel State.reset = 0 ∧ slotValue .olevel State.reset = 0

/-- The invariants hold right after reset. The values of the port signals there are the model's choice (log
entry 1); they are in the range of R7. -/
def Obligations.ResetStateIsLegal : Prop := State.reset.Inv

/-- Every step keeps the invariants: the spec's inference in R65, with the ranges of R30, R55 to R59, R320 and
R332. -/
def Obligations.StepKeepsLegalStates : Prop :=
  ∀ s s' : State, s.Inv → step s = .next s' → s'.Inv

/-- R191, R370: the RESET command and the reset input have the same effect: every piece of the unit's state
takes its reset value; the port signals stay. That the waiting accesses, the replies, the event history and
the random source's count stay is the model's reading of what is outside the unit (log entry 6). -/
def Obligations.ResetClearsTheWholeUnit : Prop :=
  ∀ s : State,
    exec .reset s = .next { State.reset with
      ports := s.ports, host := s.host, replies := s.replies, events := s.events, draws := s.draws } ∧
    ∀ rest, s.host = .resetInput :: rest → step s = exec .reset { s with host := rest }

/-! ### Session control -/

/-- R170, R190, R192, R193: NOP changes nothing, CLRERR clears the latch, FLUSHI and FLUSHO empty a queue. -/
def Obligations.HousekeepingCommands : Prop :=
  ∀ s : State, exec .nop s = .next s ∧ exec .clrerr s = .next { s with err := none, errcmd := 0 } ∧
    exec .flushi s = .next { s with ibuf := [] } ∧ exec .flusho s = .next { s with obuf := [] }

/-- R180 to R187: a successful INIT of ECB, CBC, CFB, OFB, CTR and XTS, under the checks that apply to each. -/
def Obligations.InitStartsASession : Prop :=
  ∀ s : State, s.ports.keyOk1 = true →
    exec .initEcb s = .next (newSession .ecb s) ∧
    (1 ≤ s.ports.bs1 → s.ivLen.toNat = s.ports.bs1 →
      exec .initCbc s = .next (newSession .cbc s) ∧ exec .initOfb s = .next (newSession .ofb s) ∧
      ∀ seg : BitVec 5, seg.toNat ≤ s.ports.bs1 → exec (.initCfb seg) s =
        .next { newSession .cfb s with seg := if seg.toNat = 0 then s.ports.bs1 else seg.toNat }) ∧
    (s.ctrSet = true → exec .initCtr s = .next (newSession .ctr s)) ∧
    (s.ports.keyOk2 = true → s.ports.keyLen1 = s.ports.keyLen2 → s.ports.bs1 = 16 → s.ports.bs2 = 16 →
      exec .initXts s = .next (newSession .xts s))

/-- R188, R281, R282: a successful INIT CMAC calls E1 once, on the zero block, and leaves the two subkeys,
left-aligned, the rest of the registers 0. -/
def Obligations.InitCmacDerivesTheSubkeys : Prop :=
  ∀ s : State, s.ports.keyOk1 = true →
    (s.ports.bs1 = 16 →
      let l : Block := BitVec.ofNat 128 (be2int (Config.env.e1 (List.replicate 16 0)))
      let lu := if l.msb then (l <<< 1) ^^^ 0x87#128 else l <<< 1
      let lu2 := if lu.msb then (lu <<< 1) ^^^ 0x87#128 else lu <<< 1
      exec .initCmac s = .next { newSession .cmac s with
        subk1 := lu, subk2 := lu2, events := s.events ++ [.e1 (List.replicate 16 0)] }) ∧
    (s.ports.bs1 = 8 →
      let l : BitVec 64 := BitVec.ofNat 64 (be2int (Config.env.e1 (List.replicate 8 0)))
      let lu := if l.msb then (l <<< 1) ^^^ 0x1B#64 else l <<< 1
      let lu2 := if lu.msb then (lu <<< 1) ^^^ 0x1B#64 else lu <<< 1
      exec .initCmac s = .next { newSession .cmac s with
        subk1 := lu ++ 0#64, subk2 := lu2 ++ 0#64, events := s.events ++ [.e1 (List.replicate 8 0)] })

/-- R171, R174 to R178, R189, R336: a failing INIT latches the error of the first check that fails, with its
own word, and changes nothing else. -/
def Obligations.InitReportsTheFirstFailedCheck : Prop :=
  ∀ (s : State) (i : Instr) (m : Mode), initMode i = some m → wellFormed s.ports.bs1 i = true →
    s.err = none →
    let fails := fun k => exec i s = .next (failed k (encode i) s)
    let p := s.ports
    (p.keyOk1 = false → fails .invalidKeyLength) ∧
    (p.keyOk1 = true →
      (m = .xts → p.keyOk2 = false → fails .invalidKeyLength) ∧
      (m = .xts → p.keyOk2 = true → p.keyLen1 ≠ p.keyLen2 → fails .missingParameter) ∧
      (m = .xts → p.keyOk2 = true → p.keyLen1 = p.keyLen2 → (p.bs1 ≠ 16 ∨ p.bs2 ≠ 16) →
        fails .unsupportedBlockSize) ∧
      ((m = .cbc ∨ m = .cfb ∨ m = .ofb) → s.ivLen = 0 → fails .missingParameter) ∧
      ((m = .cbc ∨ m = .cfb ∨ m = .ofb) → s.ivLen ≠ 0 → s.ivLen.toNat ≠ p.bs1 → fails .invalidIVLength) ∧
      (m = .ctr → s.ctrSet = false → fails .missingParameter) ∧
      (m = .cmac → p.bs1 ≠ 8 → p.bs1 ≠ 16 → fails .unsupportedBlockSize))

/-! ### ENC and DEC -/

/-- R202, R210, R211: ENC and DEC in ECB. -/
def Obligations.EcbProcessesEachFullBlock : Prop :=
  ∀ (d : Direction) (s : State), Asked d → s.mode = .ecb → Unlocked d s →
    Room (s.blockSize * blockCount s) s → exec (cryptInstr d) s = .next (afterEcb d s)

/-- R202, R210, R214, R215: ENC and DEC in CBC. -/
def Obligations.CbcChainsEachFullBlock : Prop :=
  ∀ s : State, s.mode = .cbc → s.blockSize ≤ 16 → Room (s.blockSize * blockCount s) s →
    (Unlocked .encrypting s → exec .enc s = .next (afterCbcEncrypt s)) ∧
    (Unlocked .decrypting s → exec .dec s = .next (afterCbcDecrypt s))

/-- R202, R230 to R232, R240: ENC and DEC in OFB. -/
def Obligations.OfbXorsTheKeystream : Prop :=
  ∀ (d : Direction) (s : State), Asked d → s.mode = .ofb → 1 ≤ s.blockSize → s.blockSize ≤ 16 →
    Unlocked d s → Room s.ibuf.length s → exec (cryptInstr d) s = .next (afterOfb d s)

/-- R202, R230 to R232, R243, R244: ENC and DEC in CTR. -/
def Obligations.CtrXorsTheEncryptedCounter : Prop :=
  ∀ (d : Direction) (s : State), Asked d → s.mode = .ctr → 1 ≤ s.blockSize → Unlocked d s →
    Room s.ibuf.length s → exec (cryptInstr d) s = .next (afterCtr d s)

/-- R202, R230 to R236: ENC and DEC in CFB of an input that lies within one segment, starting in the middle
of the segment (the first part) or at a segment boundary (the second). Longer inputs follow by
Obligations.FragmentationDoesNotMatter. -/
def Obligations.CfbWithinOneSegment : Prop :=
  ∀ (d : Direction) (s : State), Asked d → s.mode = .cfb → Unlocked d s → Room s.ibuf.length s →
    (s.ks ≠ [] → s.ibuf.length ≤ s.ks.length →
      exec (cryptInstr d) s = .next (afterCfb d s.ks s.fb [] s)) ∧
    (s.ks = [] → 1 ≤ s.ibuf.length → s.ibuf.length ≤ s.seg → s.seg ≤ s.blockSize → s.blockSize ≤ 16 →
      exec (cryptInstr d) s =
        .next (afterCfb d ((Config.env.e1 (blk s.iv s.blockSize)).take s.seg) []
          [.e1 (blk s.iv s.blockSize)] s))

/-- R202, R262 to R266, R268: ENC and DEC in XTS of a whole number of blocks. Block q is masked with T0 times
2^q, computed by the multiplier. -/
def Obligations.XtsMasksEachBlock : Prop :=
  ∀ (d : Direction) (s : State), Asked d → s.mode = .xts → Unlocked d s → 16 ≤ s.ibuf.length →
    s.ibuf.length < s.xtsMax.toNat → s.ibuf.length % 16 = 0 → Room s.ibuf.length s →
    exec (cryptInstr d) s = .next (afterXtsWhole d s)

/-- R202, R262 to R266, R268: ENC and DEC in XTS with ciphertext stealing. That the history shows m + 1
codebook calls, as R266's pseudocode makes them and not the m of its prose, is the model's choice (log
entry 18). -/
def Obligations.XtsStealsCiphertext : Prop :=
  ∀ (d : Direction) (s : State), Asked d → s.mode = .xts → Unlocked d s → 16 ≤ s.ibuf.length →
    s.ibuf.length < s.xtsMax.toNat → s.ibuf.length % 16 ≠ 0 → Room s.ibuf.length s →
    exec (cryptInstr d) s = .next (afterXtsSteal d s)

/-- R262: the bytes of TWEAK beyond TWEAKLEN have no influence on an XTS call. -/
def Obligations.TweakBytesBeyondLengthAreIgnored : Prop :=
  ∀ (d : Direction) (s s' : State) (x : Block), Asked d → s.mode = .xts →
    blk x (min s.tweakLen.toNat 16) = blk s.tweak (min s.tweakLen.toNat 16) →
    exec (cryptInstr d) s = .next s' → exec (cryptInstr d) { s with tweak := x } = .next { s' with tweak := x }

/-- R202, R284, R285: ENC in CMAC appends the tag of the whole message. -/
def Obligations.CmacAppendsTheTag : Prop :=
  ∀ s : State, s.mode = .cmac → Unlocked .encrypting s → 1 ≤ s.blockSize → Room s.blockSize s →
    exec .enc s = .next (afterCmac s)

/-- R202, R206, R261, R288, R336: a failing ENC or DEC latches the error of the first check that fails and
changes nothing else. -/
def Obligations.CryptReportsTheFirstFailedCheck : Prop :=
  ∀ (d : Direction) (s : State), Asked d → s.err = none →
    let fails := fun k => exec (cryptInstr d) s = .next (failed k (encode (cryptInstr d)) s)
    let n := s.ibuf.length
    (s.mode = .none → fails .illegalCommand) ∧
    (s.mode = .cmac → d = .decrypting → fails .illegalCommand) ∧
    (s.mode ≠ .none → ¬ (s.mode = .cmac ∧ d = .decrypting) →
      (¬ Unlocked d s → fails .directionConflict) ∧
      (Unlocked d s →
        (s.mode = .xts → n < 16 → fails .inputTooShort) ∧
        (s.mode = .xts → 16 ≤ n → s.xtsMax.toNat ≤ n → fails .inputTooLong) ∧
        (s.mode = .xts → 16 ≤ n → n < s.xtsMax.toNat → ¬ Room n s → fails .bufferOverflow) ∧
        (s.mode = .cmac → ¬ Room s.blockSize s → fails .bufferOverflow) ∧
        (s.mode.streams = true → ¬ Room n s → fails .bufferOverflow) ∧
        (s.mode.caches = true → ¬ Room (s.blockSize * blockCount s) s → fails .bufferOverflow)))

/-- How many bytes a successful ENC or DEC appends to OBUF, in each mode (the spec's inference in R204); nothing
is taken from the bytes that were there. -/
def Obligations.OutputLengthByMode : Prop :=
  ∀ (d : Direction) (s s' : State), Asked d → s.Inv → s.err = none → exec (cryptInstr d) s = .next s' →
    s'.err = none → ∃ out, s'.obuf = s.obuf ++ out ∧
      (s.mode.caches = true → out.length = s.blockSize * blockCount s) ∧
      (s.mode.streams = true ∨ s.mode = .xts → out.length = s.ibuf.length) ∧
      (s.mode = .cmac → out.length = s.blockSize)

/-- The number of codebook calls of a stream update, each one E1 (the spec's inference in R231; the history:
log entry 9). -/
def Obligations.StreamCallsTheCodebookAsNeeded : Prop :=
  ∀ (d : Direction) (s : State), Asked d → s.Inv → s.mode.streams = true → Unlocked d s →
    Room s.ibuf.length s → ∃ s' l, exec (cryptInstr d) s = .next s' ∧ s'.events = s.events ++ l ∧
      l.length = callCount s.ibuf.length s.ks.length (if s.mode = .cfb then s.seg else s.blockSize) ∧
      ∀ e ∈ l, ∃ x, e = .e1 x ∧ x.length = s.blockSize

/-- ENC or DEC of nothing only sets the direction, in ECB, CBC and the stream modes (the spec's inference in
R207). -/
def Obligations.EmptyInputOnlySetsTheDirection : Prop :=
  ∀ (d : Direction) (s : State), Asked d → s.Inv → (s.mode.caches = true ∨ s.mode.streams = true) →
    Unlocked d s → s.ibuf = [] → exec (cryptInstr d) s = .next { s with dir := d }

/-- Fragmentation invariance (the spec's inference in R212, R216, R238, R241, R246). Two ENCs (or two DECs)
over the pieces of an input end in the same state as one over the whole. -/
def Obligations.FragmentationDoesNotMatter : Prop :=
  ∀ (d : Direction) (s : State) (xs ys : Bytes), Asked d → s.Inv → Unlocked d s →
    ((s.mode.caches = true ∧ Room (s.cache.length + xs.length + ys.length) s) ∨
      (s.mode.streams = true ∧ Room (xs.length + ys.length) s)) →
    ∃ s1 s2, exec (cryptInstr d) { s with ibuf := xs } = .next s1 ∧
      exec (cryptInstr d) { s1 with ibuf := ys } = .next s2 ∧
      exec (cryptInstr d) { s with ibuf := xs ++ ys } = .next s2

/-- Round trip of ECB and CBC on a whole number of blocks (the spec's inference in R212 and R216). `r` is any
fresh session of the same mode whose running value is the one that the encrypting session started from. -/
def Obligations.BlockModesRoundTrip : Prop :=
  ∀ s r : State, s.Inv → r.Inv → s.mode.caches = true → s.dir = .unset → s.cache = [] →
    s.ibuf.length % s.blockSize = 0 → Room s.ibuf.length s → r.mode = s.mode → r.blockSize = s.blockSize →
    r.dir = .unset → r.cache = [] → blk r.iv s.blockSize = blk s.iv s.blockSize →
    Room s.ibuf.length r →
    ∃ s' c r', exec .enc s = .next s' ∧ s'.obuf = s.obuf ++ c ∧ c.length = s.ibuf.length ∧
      exec .dec { r with ibuf := c } = .next r' ∧ r'.obuf = r.obuf ++ s.ibuf

/-- Round trip of CFB, OFB and CTR for every length (the spec's inference in R238, R241, R246). `r` is any
fresh session of the same mode and segment with the running value and the counter that the encrypting session
started from. -/
def Obligations.StreamModesRoundTrip : Prop :=
  ∀ s r : State, s.Inv → r.Inv → s.mode.streams = true → s.dir = .unset → s.ks = [] →
    Room s.ibuf.length s → r.mode = s.mode → r.blockSize = s.blockSize → r.seg = s.seg → r.dir = .unset →
    r.ks = [] → blk r.iv s.blockSize = blk s.iv s.blockSize → r.ctr = s.ctr → Room s.ibuf.length r →
    ∃ s' c r', exec .enc s = .next s' ∧ s'.obuf = s.obuf ++ c ∧ c.length = s.ibuf.length ∧
      exec .dec { r with ibuf := c } = .next r' ∧ r'.obuf = r.obuf ++ s.ibuf

/-- Round trip of XTS for every data unit of 16 to XTSMAX - 1 bytes, under the same tweak bytes (the spec's
inference in R269). -/
def Obligations.XtsRoundTrip : Prop :=
  ∀ s r : State, s.mode = .xts → s.dir = .unset → 16 ≤ s.ibuf.length → s.ibuf.length < s.xtsMax.toNat →
    Room s.ibuf.length s → r.mode = .xts → r.dir = .unset → r.tweak = s.tweak → r.tweakLen = s.tweakLen →
    s.ibuf.length < r.xtsMax.toNat → Room s.ibuf.length r →
    ∃ s' c r', exec .enc s = .next s' ∧ s'.obuf = s.obuf ++ c ∧ c.length = s.ibuf.length ∧
      exec .dec { r with ibuf := c } = .next r' ∧ r'.obuf = r.obuf ++ s.ibuf

/-! ### FINAL and padding -/

/-- R289, R317, R321, R336: FINAL is illegal with no session, in XTS and in CMAC, a no-op when the session
is not encrypting, and fails when its output does not fit. -/
def Obligations.FinalChecksInOrder : Prop :=
  ∀ (p : PadScheme) (s : State),
    let fails := fun k => exec (finalInstr p) s = .next (failed k (encode (finalInstr p)) s)
    (s.err = none → (s.mode = .none ∨ s.mode = .xts ∨ s.mode = .cmac) → fails .illegalCommand) ∧
    ((s.mode.caches = true ∨ s.mode.streams = true) → s.dir ≠ .encrypting →
      exec (finalInstr p) s = .next s) ∧
    (s.err = none → s.dir = .encrypting → paddedFrom s < s.blockSize →
      (s.mode.caches = true → padding p (paddedFrom s) s.blockSize s ≠ [] → ¬ Room s.blockSize s →
        fails .bufferOverflow) ∧
      (s.mode.streams = true → ¬ Room (padding p (paddedFrom s) s.blockSize s).length s →
        fails .bufferOverflow))

/-- R302 to R306, R317, R318: FINAL in ECB and CBC processes the cached bytes and their padding as one
block, if there is room for its output; zerosPadding of an empty cache has none and does nothing, also with OBUF
full. -/
def Obligations.FinalPadsTheCachedBlock : Prop :=
  ∀ (p : PadScheme) (s : State), s.mode.caches = true → s.dir = .encrypting →
    s.cache.length < s.blockSize → s.blockSize ≤ 16 → Room (finalLength p s) s →
    exec (finalInstr p) s = .next
      (if p = .zerosPadding ∧ s.cache = [] then s else afterFinalBlock p s)

/-- R302 to R306, R317, R320: with room for its output, FINAL does to the session what an ENC of the padding bytes
does, IBUF apart, and leaves CACHE empty and BYTECOUNT 0 (the spec's inference in R323). -/
def Obligations.FinalIsAnEncOfThePadding : Prop :=
  ∀ (p : PadScheme) (s : State), s.Inv → (s.mode.caches = true ∨ s.mode.streams = true) →
    s.dir = .encrypting → Room (finalLength p s) s →
    ∃ e, exec .enc (paddingAsInput p s) = .next e ∧ exec (finalInstr p) s = .next { e with ibuf := s.ibuf } ∧
      e.cache = [] ∧ e.byteCount = 0 ∧ e.err = s.err ∧
      ∃ out, e.obuf = s.obuf ++ out ∧ out.length = finalLength p s

/-- R300 to R306: the padding bytes of every scheme, their number (the spec's inference in R307), and that they
complete a block. -/
def Obligations.PaddingCompletesABlock : Prop :=
  ∀ (p : PadScheme) (n bs : Nat) (s : State), 1 ≤ bs →
    let b := (padBytes Config.env p n bs s).1
    b = padding p (n % bs) bs s ∧ padLength p n bs = b.length ∧ (n + b.length) % bs = 0 ∧
      b.length = if p = .zerosPadding ∧ n % bs = 0 then 0 else bs - n % bs

/-- Unpad (R312 to R316) undoes pad, for zerosPadding exactly when the data does not end in 0x00 (the spec's
inference in R323). -/
def Obligations.UnpadUndoesPad : Prop :=
  ∀ (p : PadScheme) (bs : Nat) (d : Bytes) (s : State), 1 ≤ bs → bs ≤ 255 →
    (p ≠ .zerosPadding → unpad p (pad Config.env p bs d s).1 = some d) ∧
    (p = .zerosPadding → (unpad p (pad Config.env p bs d s).1 = some d ↔ d.getLast? ≠ some 0#8))

/-! ### The GF unit -/

/-- R141 to R143, R150: GFMUL leaves in GFR the whole remainder, modulo x^128+x^7+x^2+x+1, of the carry-less
product; a remainder has a smaller degree than the modulus and differs from the product by a multiple of
it. -/
def Obligations.GfMulIsTheFieldProduct : Prop :=
  (∀ s : State, ∃ r : Block, exec .gfmul s = .next { s with gfr := r } ∧
    r.toNat = polyred (clmul s.gfa.toNat s.gfb.toNat) (2 ^ 128 + 0x87)) ∧
  ∀ p m : Nat, 1 ≤ m → deg (polyred p m) < deg m ∧ ∃ q, p = clmul q m ^^^ polyred p m

/-- The ring laws of the multiplication (the spec's inference in R147). -/
def Obligations.GfMulRingLaws : Prop :=
  ∀ a b c : Block,
    gf2pow128mul a b = gf2pow128mul b a ∧
    gf2pow128mul (gf2pow128mul a b) c = gf2pow128mul a (gf2pow128mul b c) ∧
    gf2pow128mul a 0 = 0 ∧ gf2pow128mul a 1 = a ∧
    gf2pow128mul a (b ^^^ c) = gf2pow128mul a b ^^^ gf2pow128mul a c

/-- R146, R152: GFPOW2 leaves in GFR the n-fold doubling of 1, for every exponent n of 32 bits. -/
def Obligations.GfPow2IsRepeatedDoubling : Prop :=
  ∀ s : State, exec .gfpow2 s = .next { s with gfr := gf2pow128powof2 s.gfn.toNat }

/-- Below 128 a power of 2 is a shift (R146), and powers multiply by adding exponents (the spec's inference
there). -/
def Obligations.PowersOfTwoMultiply : Prop :=
  (∀ n : Nat, n < 128 → gf2pow128powof2 n = 1#128 <<< n) ∧
  ∀ a b : Nat, gf2pow128powof2 (a + b) = gf2pow128mul (gf2pow128powof2 a) (gf2pow128powof2 b)

/-- R144, R154, R155, in the form of the spec's inference in R145: GFDBL multiplies GFA by 2 in GF(2^128);
GFDBL.64 multiplies the low 64 bits of GFA by 2 modulo x^64+x^4+x^3+x+1 and clears the upper half of GFR. -/
def Obligations.GfDoublingIsMultiplicationByTwo : Prop :=
  ∀ s : State, exec .gfdbl s = .next { s with gfr := gf2pow128mul s.gfa 2 } ∧
    ∃ r : Block, exec .gfdbl64 s = .next { s with gfr := r } ∧
      some r.toNat = gf2nMul (s.gfa.toNat % 2 ^ 64) 2 (2 ^ 64 + 0x1B)

end
end

