-- ==== Sys2Proof/Laws/Bytes.lean ====
section
/-! SUPPORT. Byte strings and their integer readings (R9, R10), block registers as byte strings (R11), and
the cutting of a string into blocks. -/

namespace Sys2Proof.Machine

/-! ### Strings -/

@[simp] theorem zeros_length (n : Nat) : (zeros n).length = n := by simp [zeros]

@[simp] theorem zeros_zero : zeros 0 = [] := rfl

@[simp] theorem xorBytes_length (a b : Bytes) : (xorBytes a b).length = min a.length b.length := by
  simp [xorBytes]

@[simp] theorem xorBytes_nil_left (b : Bytes) : xorBytes [] b = [] := rfl

@[simp] theorem xorBytes_nil_right (a : Bytes) : xorBytes a [] = [] := by simp [xorBytes]

@[simp] theorem xorBytes_cons (x y : Byte) (a b : Bytes) :
    xorBytes (x :: a) (y :: b) = (x ^^^ y) :: xorBytes a b := rfl

theorem xorBytes_append (a b c d : Bytes) (h : a.length = b.length) :
    xorBytes (a ++ c) (b ++ d) = xorBytes a b ++ xorBytes c d := by
  simp [xorBytes, List.zipWith_append h]

/-- XOR with the same string twice gives the string back, as far as the second string reaches. -/
theorem xorBytes_xorBytes (a b : Bytes) (h : a.length ≤ b.length) : xorBytes (xorBytes a b) b = a := by
  apply List.ext_getElem
  · simp [h]
  · intro i h1 h2
    simp [xorBytes]

/-! ### Big-endian integers -/

@[simp] theorem int2be_length (v n : Nat) : (int2be v n).length = n := by
  induction n generalizing v with
  | zero => rfl
  | succ n ih => simp [int2be, ih]

@[simp] theorem int2le_length (v n : Nat) : (int2le v n).length = n := by simp [int2le]

@[simp] theorem be2int_nil : be2int [] = 0 := rfl

theorem be2int_append_singleton (s : Bytes) (b : Byte) : be2int (s ++ [b]) = be2int s * 256 + b.toNat := by
  simp [be2int]

theorem be2int_lt (s : Bytes) : be2int s < 256 ^ s.length := by
  induction s using List.reverseRecOn with
  | nil => simp
  | append_singleton s b ih =>
    rw [be2int_append_singleton, List.length_append, List.length_singleton, Nat.pow_succ]
    have := b.isLt
    omega

/-- R10: reading back the n-byte string of an integer gives the integer modulo 256^n. -/
theorem be2int_int2be (v n : Nat) : be2int (int2be v n) = v % 256 ^ n := by
  induction n generalizing v with
  | zero => simp [int2be, Nat.mod_one]
  | succ n ih =>
    rw [int2be, be2int_append_singleton, ih, BitVec.toNat_ofNat]
    have := Nat.mod_mul (x := v) (a := 256) (b := 256 ^ n)
    rw [show 256 ^ (n + 1) = 256 * 256 ^ n by rw [Nat.pow_succ, Nat.mul_comm], this]
    omega

theorem int2be_be2int (s : Bytes) : int2be (be2int s) s.length = s := by
  induction s using List.reverseRecOn with
  | nil => rfl
  | append_singleton s b ih =>
    have hb := b.isLt
    rw [List.length_append, List.length_singleton, int2be, be2int_append_singleton,
      show (be2int s * 256 + b.toNat) / 256 = be2int s by omega, ih]
    congr 2
    apply BitVec.eq_of_toNat_eq
    rw [BitVec.toNat_ofNat]
    omega

theorem le2int_int2le (v n : Nat) : le2int (int2le v n) = v % 256 ^ n := by
  simp [le2int, int2le, be2int_int2be]

theorem int2le_le2int (s : Bytes) : int2le (le2int s) s.length = s := by
  have h := int2be_be2int s.reverse
  rw [List.length_reverse] at h
  rw [int2le, le2int, h, List.reverse_reverse]

/-! ### Block registers -/

@[simp] theorem blk_length (r : Block) (n : Nat) : (blk r n).length = min n 16 := by simp [blk]

/-- R11: the bytes of the register that a 16-byte string makes are the string. -/
theorem blk_ofBytes (s : Bytes) (h : s.length = 16) : blk (ofBytes s) 16 = s := by
  have hs := be2int_lt s
  rw [h] at hs
  have : (ofBytes s).toNat = be2int s := by
    rw [ofBytes, BitVec.toNat_ofNat, Nat.mod_eq_of_lt (Nat.lt_of_lt_of_eq hs (by norm_num))]
  have hi := int2be_be2int s
  rw [h] at hi
  rw [blk, this, hi, ← h, List.take_length]

/-- R11: the register that its own 16 bytes make is the register. -/
theorem ofBytes_blk (r : Block) : ofBytes (blk r 16) = r := by
  have h : blk r 16 = int2be r.toNat 16 := by
    rw [blk]
    exact List.take_of_length_le (by simp)
  have hr : r.toNat < 256 ^ 16 := Nat.lt_of_lt_of_eq r.isLt (by norm_num)
  rw [h, ofBytes, be2int_int2be, Nat.mod_eq_of_lt hr]
  simp

theorem blk_eq_take (r : Block) (n : Nat) (h : n ≤ 16) : blk r n = (blk r 16).take n := by
  simp [blk, List.take_take, Nat.min_eq_left h]

/-- Two registers with the same 16 bytes are the same. -/
theorem eq_of_blk_eq {r q : Block} (h : blk r 16 = blk q 16) : r = q := by
  rw [← ofBytes_blk r, h, ofBytes_blk]

/-- R11: everything that setblk does, for a string of at most 16 bytes. -/
theorem blk_setblk (r : Block) (s : Bytes) (h : s.length ≤ 16) :
    blk (setblk r s) 16 = s ++ (blk r 16).drop s.length := by
  rw [setblk, blk_ofBytes]
  simp
  omega

theorem blk_setblk_self (r : Block) (s : Bytes) (h : s.length ≤ 16) : blk (setblk r s) s.length = s := by
  rw [blk_eq_take _ _ h, blk_setblk r s h, List.take_left]

theorem setblk_setblk (r : Block) (s u : Bytes) (h : s.length = u.length) (hu : u.length ≤ 16) :
    setblk (setblk r u) s = setblk r s := by
  apply eq_of_blk_eq
  rw [blk_setblk (setblk r u) s (by omega), blk_setblk r u hu, blk_setblk r s (by omega), h, List.drop_left]

theorem setblk_blk (r : Block) (n : Nat) (h : n ≤ 16) : setblk r (blk r n) = r := by
  apply eq_of_blk_eq
  rw [blk_setblk _ _ (by simp), blk_eq_take r n h]
  simp [Nat.min_eq_left h]

/-! ### Blocks of a string -/

@[simp] theorem chunks_zero (bs : Nat) (buf : Bytes) : chunks bs 0 buf = [] := rfl

@[simp] theorem chunks_length (bs n : Nat) (buf : Bytes) : (chunks bs n buf).length = n := by
  induction n generalizing buf with
  | zero => rfl
  | succ n ih => simp [chunks, ih]

/-- Everything about the cutting: block i is bytes bs*i to bs*i+bs-1. -/
theorem chunks_eq_map (bs n : Nat) (buf : Bytes) :
    chunks bs n buf = (List.range n).map fun i => (buf.drop (bs * i)).take bs := by
  induction n generalizing buf with
  | zero => rfl
  | succ n ih =>
    rw [chunks, ih, List.range_succ_eq_map, List.map_cons, List.map_map]
    simp only [Nat.mul_zero, List.drop_zero, List.cons.injEq, true_and]
    apply List.map_congr_left
    intro i _
    simp [List.drop_drop, Nat.mul_succ, Nat.add_comm]

/-- The blocks put together are the bytes they were cut from. -/
theorem chunks_flatten (bs n : Nat) (buf : Bytes) : (chunks bs n buf).flatten = buf.take (bs * n) := by
  induction n generalizing buf with
  | zero => simp
  | succ n ih =>
    rw [chunks, List.flatten_cons, ih, Nat.mul_succ, Nat.add_comm, List.take_add]

theorem chunks_add (bs m n : Nat) (buf : Bytes) :
    chunks bs (m + n) buf = chunks bs m buf ++ chunks bs n (buf.drop (bs * m)) := by
  induction m generalizing buf with
  | zero => simp
  | succ m ih =>
    rw [Nat.succ_add, chunks, chunks, ih, List.cons_append, List.drop_drop, Nat.mul_succ,
      Nat.add_comm bs]

/-! ### The XTS mask and the padding strings -/

@[simp] theorem mask_length (t : Block) : (mask t).length = 16 := by simp [mask]

@[simp] theorem tweakBlock_length (s : State) : (tweakBlock s).length = 16 := by
  simp [tweakBlock, tweakLength]

end Sys2Proof.Machine
end

