-- ==== Sys2Proof/Laws/State.lean ====
section
/-! SUPPORT. One lemma for each field of State and each named update, true by definition, so that no proof
unfolds a record update. -/

namespace Sys2Proof.Machine

/-! ### State.log (R14) -/

@[simp] theorem log_iv (s : State) (e : Event) : (s.log e).iv = s.iv := rfl
@[simp] theorem log_ctr (s : State) (e : Event) : (s.log e).ctr = s.ctr := rfl
@[simp] theorem log_tweak (s : State) (e : Event) : (s.log e).tweak = s.tweak := rfl
@[simp] theorem log_t (s : State) (e : Event) : (s.log e).t = s.t := rfl
@[simp] theorem log_gfa (s : State) (e : Event) : (s.log e).gfa = s.gfa := rfl
@[simp] theorem log_gfb (s : State) (e : Event) : (s.log e).gfb = s.gfb := rfl
@[simp] theorem log_gfr (s : State) (e : Event) : (s.log e).gfr = s.gfr := rfl
@[simp] theorem log_subk1 (s : State) (e : Event) : (s.log e).subk1 = s.subk1 := rfl
@[simp] theorem log_subk2 (s : State) (e : Event) : (s.log e).subk2 = s.subk2 := rfl
@[simp] theorem log_ivLen (s : State) (e : Event) : (s.log e).ivLen = s.ivLen := rfl
@[simp] theorem log_tweakLen (s : State) (e : Event) : (s.log e).tweakLen = s.tweakLen := rfl
@[simp] theorem log_ctrSet (s : State) (e : Event) : (s.log e).ctrSet = s.ctrSet := rfl
@[simp] theorem log_xtsMax (s : State) (e : Event) : (s.log e).xtsMax = s.xtsMax := rfl
@[simp] theorem log_gfn (s : State) (e : Event) : (s.log e).gfn = s.gfn := rfl
@[simp] theorem log_mode (s : State) (e : Event) : (s.log e).mode = s.mode := rfl
@[simp] theorem log_dir (s : State) (e : Event) : (s.log e).dir = s.dir := rfl
@[simp] theorem log_blockSize (s : State) (e : Event) : (s.log e).blockSize = s.blockSize := rfl
@[simp] theorem log_seg (s : State) (e : Event) : (s.log e).seg = s.seg := rfl
@[simp] theorem log_byteCount (s : State) (e : Event) : (s.log e).byteCount = s.byteCount := rfl
@[simp] theorem log_cache (s : State) (e : Event) : (s.log e).cache = s.cache := rfl
@[simp] theorem log_ks (s : State) (e : Event) : (s.log e).ks = s.ks := rfl
@[simp] theorem log_fb (s : State) (e : Event) : (s.log e).fb = s.fb := rfl
@[simp] theorem log_ibuf (s : State) (e : Event) : (s.log e).ibuf = s.ibuf := rfl
@[simp] theorem log_obuf (s : State) (e : Event) : (s.log e).obuf = s.obuf := rfl
@[simp] theorem log_err (s : State) (e : Event) : (s.log e).err = s.err := rfl
@[simp] theorem log_errcmd (s : State) (e : Event) : (s.log e).errcmd = s.errcmd := rfl
@[simp] theorem log_ports (s : State) (e : Event) : (s.log e).ports = s.ports := rfl
@[simp] theorem log_host (s : State) (e : Event) : (s.log e).host = s.host := rfl
@[simp] theorem log_replies (s : State) (e : Event) : (s.log e).replies = s.replies := rfl
@[simp] theorem log_events (s : State) (e : Event) : (s.log e).events = s.events ++ [e] := rfl
@[simp] theorem log_draws (s : State) (e : Event) : (s.log e).draws = s.draws := rfl

/-! ### State.reply (R12) -/

@[simp] theorem reply_iv (s : State) (v : Word) : (s.reply v).iv = s.iv := rfl
@[simp] theorem reply_ctr (s : State) (v : Word) : (s.reply v).ctr = s.ctr := rfl
@[simp] theorem reply_tweak (s : State) (v : Word) : (s.reply v).tweak = s.tweak := rfl
@[simp] theorem reply_t (s : State) (v : Word) : (s.reply v).t = s.t := rfl
@[simp] theorem reply_gfa (s : State) (v : Word) : (s.reply v).gfa = s.gfa := rfl
@[simp] theorem reply_gfb (s : State) (v : Word) : (s.reply v).gfb = s.gfb := rfl
@[simp] theorem reply_gfr (s : State) (v : Word) : (s.reply v).gfr = s.gfr := rfl
@[simp] theorem reply_subk1 (s : State) (v : Word) : (s.reply v).subk1 = s.subk1 := rfl
@[simp] theorem reply_subk2 (s : State) (v : Word) : (s.reply v).subk2 = s.subk2 := rfl
@[simp] theorem reply_ivLen (s : State) (v : Word) : (s.reply v).ivLen = s.ivLen := rfl
@[simp] theorem reply_tweakLen (s : State) (v : Word) : (s.reply v).tweakLen = s.tweakLen := rfl
@[simp] theorem reply_ctrSet (s : State) (v : Word) : (s.reply v).ctrSet = s.ctrSet := rfl
@[simp] theorem reply_xtsMax (s : State) (v : Word) : (s.reply v).xtsMax = s.xtsMax := rfl
@[simp] theorem reply_gfn (s : State) (v : Word) : (s.reply v).gfn = s.gfn := rfl
@[simp] theorem reply_mode (s : State) (v : Word) : (s.reply v).mode = s.mode := rfl
@[simp] theorem reply_dir (s : State) (v : Word) : (s.reply v).dir = s.dir := rfl
@[simp] theorem reply_blockSize (s : State) (v : Word) : (s.reply v).blockSize = s.blockSize := rfl
@[simp] theorem reply_seg (s : State) (v : Word) : (s.reply v).seg = s.seg := rfl
@[simp] theorem reply_byteCount (s : State) (v : Word) : (s.reply v).byteCount = s.byteCount := rfl
@[simp] theorem reply_cache (s : State) (v : Word) : (s.reply v).cache = s.cache := rfl
@[simp] theorem reply_ks (s : State) (v : Word) : (s.reply v).ks = s.ks := rfl
@[simp] theorem reply_fb (s : State) (v : Word) : (s.reply v).fb = s.fb := rfl
@[simp] theorem reply_ibuf (s : State) (v : Word) : (s.reply v).ibuf = s.ibuf := rfl
@[simp] theorem reply_obuf (s : State) (v : Word) : (s.reply v).obuf = s.obuf := rfl
@[simp] theorem reply_err (s : State) (v : Word) : (s.reply v).err = s.err := rfl
@[simp] theorem reply_errcmd (s : State) (v : Word) : (s.reply v).errcmd = s.errcmd := rfl
@[simp] theorem reply_ports (s : State) (v : Word) : (s.reply v).ports = s.ports := rfl
@[simp] theorem reply_host (s : State) (v : Word) : (s.reply v).host = s.host := rfl
@[simp] theorem reply_replies (s : State) (v : Word) : (s.reply v).replies = s.replies ++ [v] := rfl
@[simp] theorem reply_events (s : State) (v : Word) : (s.reply v).events = s.events := rfl
@[simp] theorem reply_draws (s : State) (v : Word) : (s.reply v).draws = s.draws := rfl

/-! ### clearError (R340) -/

@[simp] theorem clearError_iv (s : State) : (clearError s).iv = s.iv := rfl
@[simp] theorem clearError_ctr (s : State) : (clearError s).ctr = s.ctr := rfl
@[simp] theorem clearError_tweak (s : State) : (clearError s).tweak = s.tweak := rfl
@[simp] theorem clearError_t (s : State) : (clearError s).t = s.t := rfl
@[simp] theorem clearError_gfa (s : State) : (clearError s).gfa = s.gfa := rfl
@[simp] theorem clearError_gfb (s : State) : (clearError s).gfb = s.gfb := rfl
@[simp] theorem clearError_gfr (s : State) : (clearError s).gfr = s.gfr := rfl
@[simp] theorem clearError_subk1 (s : State) : (clearError s).subk1 = s.subk1 := rfl
@[simp] theorem clearError_subk2 (s : State) : (clearError s).subk2 = s.subk2 := rfl
@[simp] theorem clearError_ivLen (s : State) : (clearError s).ivLen = s.ivLen := rfl
@[simp] theorem clearError_tweakLen (s : State) : (clearError s).tweakLen = s.tweakLen := rfl
@[simp] theorem clearError_ctrSet (s : State) : (clearError s).ctrSet = s.ctrSet := rfl
@[simp] theorem clearError_xtsMax (s : State) : (clearError s).xtsMax = s.xtsMax := rfl
@[simp] theorem clearError_gfn (s : State) : (clearError s).gfn = s.gfn := rfl
@[simp] theorem clearError_mode (s : State) : (clearError s).mode = s.mode := rfl
@[simp] theorem clearError_dir (s : State) : (clearError s).dir = s.dir := rfl
@[simp] theorem clearError_blockSize (s : State) : (clearError s).blockSize = s.blockSize := rfl
@[simp] theorem clearError_seg (s : State) : (clearError s).seg = s.seg := rfl
@[simp] theorem clearError_byteCount (s : State) : (clearError s).byteCount = s.byteCount := rfl
@[simp] theorem clearError_cache (s : State) : (clearError s).cache = s.cache := rfl
@[simp] theorem clearError_ks (s : State) : (clearError s).ks = s.ks := rfl
@[simp] theorem clearError_fb (s : State) : (clearError s).fb = s.fb := rfl
@[simp] theorem clearError_ibuf (s : State) : (clearError s).ibuf = s.ibuf := rfl
@[simp] theorem clearError_obuf (s : State) : (clearError s).obuf = s.obuf := rfl
@[simp] theorem clearError_err (s : State) : (clearError s).err = none := rfl
@[simp] theorem clearError_errcmd (s : State) : (clearError s).errcmd = 0 := rfl
@[simp] theorem clearError_ports (s : State) : (clearError s).ports = s.ports := rfl
@[simp] theorem clearError_host (s : State) : (clearError s).host = s.host := rfl
@[simp] theorem clearError_replies (s : State) : (clearError s).replies = s.replies := rfl
@[simp] theorem clearError_events (s : State) : (clearError s).events = s.events := rfl
@[simp] theorem clearError_draws (s : State) : (clearError s).draws = s.draws := rfl

/-! ### startSession (R180) -/

@[simp] theorem startSession_iv (m : Mode) (s : State) : (startSession m s).iv = s.iv := rfl
@[simp] theorem startSession_ctr (m : Mode) (s : State) : (startSession m s).ctr = s.ctr := rfl
@[simp] theorem startSession_tweak (m : Mode) (s : State) : (startSession m s).tweak = s.tweak := rfl
@[simp] theorem startSession_t (m : Mode) (s : State) : (startSession m s).t = 0 := rfl
@[simp] theorem startSession_gfa (m : Mode) (s : State) : (startSession m s).gfa = s.gfa := rfl
@[simp] theorem startSession_gfb (m : Mode) (s : State) : (startSession m s).gfb = s.gfb := rfl
@[simp] theorem startSession_gfr (m : Mode) (s : State) : (startSession m s).gfr = s.gfr := rfl
@[simp] theorem startSession_subk1 (m : Mode) (s : State) : (startSession m s).subk1 = 0 := rfl
@[simp] theorem startSession_subk2 (m : Mode) (s : State) : (startSession m s).subk2 = 0 := rfl
@[simp] theorem startSession_ivLen (m : Mode) (s : State) : (startSession m s).ivLen = s.ivLen := rfl
@[simp] theorem startSession_tweakLen (m : Mode) (s : State) : (startSession m s).tweakLen = s.tweakLen := rfl
@[simp] theorem startSession_ctrSet (m : Mode) (s : State) : (startSession m s).ctrSet = s.ctrSet := rfl
@[simp] theorem startSession_xtsMax (m : Mode) (s : State) : (startSession m s).xtsMax = s.xtsMax := rfl
@[simp] theorem startSession_gfn (m : Mode) (s : State) : (startSession m s).gfn = s.gfn := rfl
@[simp] theorem startSession_mode (m : Mode) (s : State) : (startSession m s).mode = m := rfl
@[simp] theorem startSession_dir (m : Mode) (s : State) : (startSession m s).dir = .unset := rfl
@[simp] theorem startSession_blockSize (m : Mode) (s : State) : (startSession m s).blockSize = s.ports.bs1 := rfl
@[simp] theorem startSession_seg (m : Mode) (s : State) : (startSession m s).seg = 0 := rfl
@[simp] theorem startSession_byteCount (m : Mode) (s : State) : (startSession m s).byteCount = 0 := rfl
@[simp] theorem startSession_cache (m : Mode) (s : State) : (startSession m s).cache = [] := rfl
@[simp] theorem startSession_ks (m : Mode) (s : State) : (startSession m s).ks = [] := rfl
@[simp] theorem startSession_fb (m : Mode) (s : State) : (startSession m s).fb = [] := rfl
@[simp] theorem startSession_ibuf (m : Mode) (s : State) : (startSession m s).ibuf = s.ibuf := rfl
@[simp] theorem startSession_obuf (m : Mode) (s : State) : (startSession m s).obuf = s.obuf := rfl
@[simp] theorem startSession_err (m : Mode) (s : State) : (startSession m s).err = s.err := rfl
@[simp] theorem startSession_errcmd (m : Mode) (s : State) : (startSession m s).errcmd = s.errcmd := rfl
@[simp] theorem startSession_ports (m : Mode) (s : State) : (startSession m s).ports = s.ports := rfl
@[simp] theorem startSession_host (m : Mode) (s : State) : (startSession m s).host = s.host := rfl
@[simp] theorem startSession_replies (m : Mode) (s : State) : (startSession m s).replies = s.replies := rfl
@[simp] theorem startSession_events (m : Mode) (s : State) : (startSession m s).events = s.events := rfl
@[simp] theorem startSession_draws (m : Mode) (s : State) : (startSession m s).draws = s.draws := rfl

/-! ### resetUnit (R370) -/

@[simp] theorem resetUnit_iv (s : State) : (resetUnit s).iv = State.reset.iv := rfl
@[simp] theorem resetUnit_ctr (s : State) : (resetUnit s).ctr = State.reset.ctr := rfl
@[simp] theorem resetUnit_tweak (s : State) : (resetUnit s).tweak = State.reset.tweak := rfl
@[simp] theorem resetUnit_t (s : State) : (resetUnit s).t = State.reset.t := rfl
@[simp] theorem resetUnit_gfa (s : State) : (resetUnit s).gfa = State.reset.gfa := rfl
@[simp] theorem resetUnit_gfb (s : State) : (resetUnit s).gfb = State.reset.gfb := rfl
@[simp] theorem resetUnit_gfr (s : State) : (resetUnit s).gfr = State.reset.gfr := rfl
@[simp] theorem resetUnit_subk1 (s : State) : (resetUnit s).subk1 = State.reset.subk1 := rfl
@[simp] theorem resetUnit_subk2 (s : State) : (resetUnit s).subk2 = State.reset.subk2 := rfl
@[simp] theorem resetUnit_ivLen (s : State) : (resetUnit s).ivLen = State.reset.ivLen := rfl
@[simp] theorem resetUnit_tweakLen (s : State) : (resetUnit s).tweakLen = State.reset.tweakLen := rfl
@[simp] theorem resetUnit_ctrSet (s : State) : (resetUnit s).ctrSet = State.reset.ctrSet := rfl
@[simp] theorem resetUnit_xtsMax (s : State) : (resetUnit s).xtsMax = State.reset.xtsMax := rfl
@[simp] theorem resetUnit_gfn (s : State) : (resetUnit s).gfn = State.reset.gfn := rfl
@[simp] theorem resetUnit_mode (s : State) : (resetUnit s).mode = State.reset.mode := rfl
@[simp] theorem resetUnit_dir (s : State) : (resetUnit s).dir = State.reset.dir := rfl
@[simp] theorem resetUnit_blockSize (s : State) : (resetUnit s).blockSize = State.reset.blockSize := rfl
@[simp] theorem resetUnit_seg (s : State) : (resetUnit s).seg = State.reset.seg := rfl
@[simp] theorem resetUnit_byteCount (s : State) : (resetUnit s).byteCount = State.reset.byteCount := rfl
@[simp] theorem resetUnit_cache (s : State) : (resetUnit s).cache = State.reset.cache := rfl
@[simp] theorem resetUnit_ks (s : State) : (resetUnit s).ks = State.reset.ks := rfl
@[simp] theorem resetUnit_fb (s : State) : (resetUnit s).fb = State.reset.fb := rfl
@[simp] theorem resetUnit_ibuf (s : State) : (resetUnit s).ibuf = State.reset.ibuf := rfl
@[simp] theorem resetUnit_obuf (s : State) : (resetUnit s).obuf = State.reset.obuf := rfl
@[simp] theorem resetUnit_err (s : State) : (resetUnit s).err = State.reset.err := rfl
@[simp] theorem resetUnit_errcmd (s : State) : (resetUnit s).errcmd = State.reset.errcmd := rfl
@[simp] theorem resetUnit_ports (s : State) : (resetUnit s).ports = s.ports := rfl
@[simp] theorem resetUnit_host (s : State) : (resetUnit s).host = s.host := rfl
@[simp] theorem resetUnit_replies (s : State) : (resetUnit s).replies = s.replies := rfl
@[simp] theorem resetUnit_events (s : State) : (resetUnit s).events = s.events := rfl
@[simp] theorem resetUnit_draws (s : State) : (resetUnit s).draws = s.draws := rfl

/-! ### writeParam (R47) -/

@[simp] theorem writeParam_iv (v : Word) (s : State) : (writeParam v s).iv = s.iv := rfl
@[simp] theorem writeParam_ctr (v : Word) (s : State) : (writeParam v s).ctr = s.ctr := rfl
@[simp] theorem writeParam_tweak (v : Word) (s : State) : (writeParam v s).tweak = s.tweak := rfl
@[simp] theorem writeParam_t (v : Word) (s : State) : (writeParam v s).t = s.t := rfl
@[simp] theorem writeParam_gfa (v : Word) (s : State) : (writeParam v s).gfa = s.gfa := rfl
@[simp] theorem writeParam_gfb (v : Word) (s : State) : (writeParam v s).gfb = s.gfb := rfl
@[simp] theorem writeParam_gfr (v : Word) (s : State) : (writeParam v s).gfr = s.gfr := rfl
@[simp] theorem writeParam_subk1 (v : Word) (s : State) : (writeParam v s).subk1 = s.subk1 := rfl
@[simp] theorem writeParam_subk2 (v : Word) (s : State) : (writeParam v s).subk2 = s.subk2 := rfl
@[simp] theorem writeParam_ivLen (v : Word) (s : State) : (writeParam v s).ivLen = v.extractLsb' 0 5 := rfl
@[simp] theorem writeParam_tweakLen (v : Word) (s : State) : (writeParam v s).tweakLen = v.extractLsb' 8 5 := rfl
@[simp] theorem writeParam_ctrSet (v : Word) (s : State) : (writeParam v s).ctrSet = v.getLsbD 16 := rfl
@[simp] theorem writeParam_xtsMax (v : Word) (s : State) : (writeParam v s).xtsMax = s.xtsMax := rfl
@[simp] theorem writeParam_gfn (v : Word) (s : State) : (writeParam v s).gfn = s.gfn := rfl
@[simp] theorem writeParam_mode (v : Word) (s : State) : (writeParam v s).mode = s.mode := rfl
@[simp] theorem writeParam_dir (v : Word) (s : State) : (writeParam v s).dir = s.dir := rfl
@[simp] theorem writeParam_blockSize (v : Word) (s : State) : (writeParam v s).blockSize = s.blockSize := rfl
@[simp] theorem writeParam_seg (v : Word) (s : State) : (writeParam v s).seg = s.seg := rfl
@[simp] theorem writeParam_byteCount (v : Word) (s : State) : (writeParam v s).byteCount = s.byteCount := rfl
@[simp] theorem writeParam_cache (v : Word) (s : State) : (writeParam v s).cache = s.cache := rfl
@[simp] theorem writeParam_ks (v : Word) (s : State) : (writeParam v s).ks = s.ks := rfl
@[simp] theorem writeParam_fb (v : Word) (s : State) : (writeParam v s).fb = s.fb := rfl
@[simp] theorem writeParam_ibuf (v : Word) (s : State) : (writeParam v s).ibuf = s.ibuf := rfl
@[simp] theorem writeParam_obuf (v : Word) (s : State) : (writeParam v s).obuf = s.obuf := rfl
@[simp] theorem writeParam_err (v : Word) (s : State) : (writeParam v s).err = s.err := rfl
@[simp] theorem writeParam_errcmd (v : Word) (s : State) : (writeParam v s).errcmd = s.errcmd := rfl
@[simp] theorem writeParam_ports (v : Word) (s : State) : (writeParam v s).ports = s.ports := rfl
@[simp] theorem writeParam_host (v : Word) (s : State) : (writeParam v s).host = s.host := rfl
@[simp] theorem writeParam_replies (v : Word) (s : State) : (writeParam v s).replies = s.replies := rfl
@[simp] theorem writeParam_events (v : Word) (s : State) : (writeParam v s).events = s.events := rfl
@[simp] theorem writeParam_draws (v : Word) (s : State) : (writeParam v s).draws = s.draws := rfl

/-! ### Two updates of the same kind -/

@[simp] theorem clearError_clearError (s : State) : clearError (clearError s) = clearError s := rfl

@[simp] theorem resetUnit_resetUnit (s : State) : resetUnit (resetUnit s) = resetUnit s := rfl

@[simp] theorem writeParam_writeParam (v w : Word) (s : State) :
    writeParam v (writeParam w s) = writeParam v s := rfl

/-! ### Block registers -/

/-- A host write of a writable block register is what reading it gives (R23). -/
theorem readBlock_hostWriteBlock (r : BlockReg) (v : Block) (s : State) :
    readBlock r (hostWriteBlock r v s) = if r.writable then v else readBlock r s := by cases r <;> rfl

/-- A host write of one block register leaves the others. -/
theorem readBlock_hostWriteBlock_ne (r q : BlockReg) (v : Block) (s : State) (h : q ≠ r) :
    readBlock q (hostWriteBlock r v s) = readBlock q s := by cases r <;> cases q <;> first | rfl | exact absurd rfl h

@[simp] theorem hostWriteBlock_ivLen (r : BlockReg) (v : Block) (s : State) : (hostWriteBlock r v s).ivLen = s.ivLen := by
  cases r <;> rfl
@[simp] theorem hostWriteBlock_tweakLen (r : BlockReg) (v : Block) (s : State) : (hostWriteBlock r v s).tweakLen = s.tweakLen := by
  cases r <;> rfl
@[simp] theorem hostWriteBlock_ctrSet (r : BlockReg) (v : Block) (s : State) : (hostWriteBlock r v s).ctrSet = s.ctrSet := by
  cases r <;> rfl
@[simp] theorem hostWriteBlock_xtsMax (r : BlockReg) (v : Block) (s : State) : (hostWriteBlock r v s).xtsMax = s.xtsMax := by
  cases r <;> rfl
@[simp] theorem hostWriteBlock_gfn (r : BlockReg) (v : Block) (s : State) : (hostWriteBlock r v s).gfn = s.gfn := by
  cases r <;> rfl
@[simp] theorem hostWriteBlock_mode (r : BlockReg) (v : Block) (s : State) : (hostWriteBlock r v s).mode = s.mode := by
  cases r <;> rfl
@[simp] theorem hostWriteBlock_dir (r : BlockReg) (v : Block) (s : State) : (hostWriteBlock r v s).dir = s.dir := by
  cases r <;> rfl
@[simp] theorem hostWriteBlock_blockSize (r : BlockReg) (v : Block) (s : State) : (hostWriteBlock r v s).blockSize = s.blockSize := by
  cases r <;> rfl
@[simp] theorem hostWriteBlock_seg (r : BlockReg) (v : Block) (s : State) : (hostWriteBlock r v s).seg = s.seg := by
  cases r <;> rfl
@[simp] theorem hostWriteBlock_byteCount (r : BlockReg) (v : Block) (s : State) : (hostWriteBlock r v s).byteCount = s.byteCount := by
  cases r <;> rfl
@[simp] theorem hostWriteBlock_cache (r : BlockReg) (v : Block) (s : State) : (hostWriteBlock r v s).cache = s.cache := by
  cases r <;> rfl
@[simp] theorem hostWriteBlock_ks (r : BlockReg) (v : Block) (s : State) : (hostWriteBlock r v s).ks = s.ks := by
  cases r <;> rfl
@[simp] theorem hostWriteBlock_fb (r : BlockReg) (v : Block) (s : State) : (hostWriteBlock r v s).fb = s.fb := by
  cases r <;> rfl
@[simp] theorem hostWriteBlock_ibuf (r : BlockReg) (v : Block) (s : State) : (hostWriteBlock r v s).ibuf = s.ibuf := by
  cases r <;> rfl
@[simp] theorem hostWriteBlock_obuf (r : BlockReg) (v : Block) (s : State) : (hostWriteBlock r v s).obuf = s.obuf := by
  cases r <;> rfl
@[simp] theorem hostWriteBlock_err (r : BlockReg) (v : Block) (s : State) : (hostWriteBlock r v s).err = s.err := by
  cases r <;> rfl
@[simp] theorem hostWriteBlock_errcmd (r : BlockReg) (v : Block) (s : State) : (hostWriteBlock r v s).errcmd = s.errcmd := by
  cases r <;> rfl
@[simp] theorem hostWriteBlock_ports (r : BlockReg) (v : Block) (s : State) : (hostWriteBlock r v s).ports = s.ports := by
  cases r <;> rfl
@[simp] theorem hostWriteBlock_host (r : BlockReg) (v : Block) (s : State) : (hostWriteBlock r v s).host = s.host := by
  cases r <;> rfl
@[simp] theorem hostWriteBlock_replies (r : BlockReg) (v : Block) (s : State) : (hostWriteBlock r v s).replies = s.replies := by
  cases r <;> rfl
@[simp] theorem hostWriteBlock_events (r : BlockReg) (v : Block) (s : State) : (hostWriteBlock r v s).events = s.events := by
  cases r <;> rfl
@[simp] theorem hostWriteBlock_draws (r : BlockReg) (v : Block) (s : State) : (hostWriteBlock r v s).draws = s.draws := by
  cases r <;> rfl

/-! ### The error latch (R333, R341) -/

/-- Everything that taking an error can do. -/
theorem latch_spec (k : ErrorKind) (w : Word) (s : State) :
    (s.err = none ∧ latch k w s = { s with err := some k, errcmd := w }) ∨
    (s.err ≠ none ∧ latch k w s = s) := by
  unfold latch
  split
  · exact .inl ⟨by assumption, rfl⟩
  · exact .inr ⟨by simp_all, rfl⟩

@[simp] theorem latch_iv (k : ErrorKind) (w : Word) (s : State) : (latch k w s).iv = s.iv := by
  rcases latch_spec k w s with ⟨-, h⟩ | ⟨-, h⟩ <;> rw [h]
@[simp] theorem latch_ctr (k : ErrorKind) (w : Word) (s : State) : (latch k w s).ctr = s.ctr := by
  rcases latch_spec k w s with ⟨-, h⟩ | ⟨-, h⟩ <;> rw [h]
@[simp] theorem latch_tweak (k : ErrorKind) (w : Word) (s : State) : (latch k w s).tweak = s.tweak := by
  rcases latch_spec k w s with ⟨-, h⟩ | ⟨-, h⟩ <;> rw [h]
@[simp] theorem latch_t (k : ErrorKind) (w : Word) (s : State) : (latch k w s).t = s.t := by
  rcases latch_spec k w s with ⟨-, h⟩ | ⟨-, h⟩ <;> rw [h]
@[simp] theorem latch_gfa (k : ErrorKind) (w : Word) (s : State) : (latch k w s).gfa = s.gfa := by
  rcases latch_spec k w s with ⟨-, h⟩ | ⟨-, h⟩ <;> rw [h]
@[simp] theorem latch_gfb (k : ErrorKind) (w : Word) (s : State) : (latch k w s).gfb = s.gfb := by
  rcases latch_spec k w s with ⟨-, h⟩ | ⟨-, h⟩ <;> rw [h]
@[simp] theorem latch_gfr (k : ErrorKind) (w : Word) (s : State) : (latch k w s).gfr = s.gfr := by
  rcases latch_spec k w s with ⟨-, h⟩ | ⟨-, h⟩ <;> rw [h]
@[simp] theorem latch_subk1 (k : ErrorKind) (w : Word) (s : State) : (latch k w s).subk1 = s.subk1 := by
  rcases latch_spec k w s with ⟨-, h⟩ | ⟨-, h⟩ <;> rw [h]
@[simp] theorem latch_subk2 (k : ErrorKind) (w : Word) (s : State) : (latch k w s).subk2 = s.subk2 := by
  rcases latch_spec k w s with ⟨-, h⟩ | ⟨-, h⟩ <;> rw [h]
@[simp] theorem latch_ivLen (k : ErrorKind) (w : Word) (s : State) : (latch k w s).ivLen = s.ivLen := by
  rcases latch_spec k w s with ⟨-, h⟩ | ⟨-, h⟩ <;> rw [h]
@[simp] theorem latch_tweakLen (k : ErrorKind) (w : Word) (s : State) : (latch k w s).tweakLen = s.tweakLen := by
  rcases latch_spec k w s with ⟨-, h⟩ | ⟨-, h⟩ <;> rw [h]
@[simp] theorem latch_ctrSet (k : ErrorKind) (w : Word) (s : State) : (latch k w s).ctrSet = s.ctrSet := by
  rcases latch_spec k w s with ⟨-, h⟩ | ⟨-, h⟩ <;> rw [h]
@[simp] theorem latch_xtsMax (k : ErrorKind) (w : Word) (s : State) : (latch k w s).xtsMax = s.xtsMax := by
  rcases latch_spec k w s with ⟨-, h⟩ | ⟨-, h⟩ <;> rw [h]
@[simp] theorem latch_gfn (k : ErrorKind) (w : Word) (s : State) : (latch k w s).gfn = s.gfn := by
  rcases latch_spec k w s with ⟨-, h⟩ | ⟨-, h⟩ <;> rw [h]
@[simp] theorem latch_mode (k : ErrorKind) (w : Word) (s : State) : (latch k w s).mode = s.mode := by
  rcases latch_spec k w s with ⟨-, h⟩ | ⟨-, h⟩ <;> rw [h]
@[simp] theorem latch_dir (k : ErrorKind) (w : Word) (s : State) : (latch k w s).dir = s.dir := by
  rcases latch_spec k w s with ⟨-, h⟩ | ⟨-, h⟩ <;> rw [h]
@[simp] theorem latch_blockSize (k : ErrorKind) (w : Word) (s : State) : (latch k w s).blockSize = s.blockSize := by
  rcases latch_spec k w s with ⟨-, h⟩ | ⟨-, h⟩ <;> rw [h]
@[simp] theorem latch_seg (k : ErrorKind) (w : Word) (s : State) : (latch k w s).seg = s.seg := by
  rcases latch_spec k w s with ⟨-, h⟩ | ⟨-, h⟩ <;> rw [h]
@[simp] theorem latch_byteCount (k : ErrorKind) (w : Word) (s : State) : (latch k w s).byteCount = s.byteCount := by
  rcases latch_spec k w s with ⟨-, h⟩ | ⟨-, h⟩ <;> rw [h]
@[simp] theorem latch_cache (k : ErrorKind) (w : Word) (s : State) : (latch k w s).cache = s.cache := by
  rcases latch_spec k w s with ⟨-, h⟩ | ⟨-, h⟩ <;> rw [h]
@[simp] theorem latch_ks (k : ErrorKind) (w : Word) (s : State) : (latch k w s).ks = s.ks := by
  rcases latch_spec k w s with ⟨-, h⟩ | ⟨-, h⟩ <;> rw [h]
@[simp] theorem latch_fb (k : ErrorKind) (w : Word) (s : State) : (latch k w s).fb = s.fb := by
  rcases latch_spec k w s with ⟨-, h⟩ | ⟨-, h⟩ <;> rw [h]
@[simp] theorem latch_ibuf (k : ErrorKind) (w : Word) (s : State) : (latch k w s).ibuf = s.ibuf := by
  rcases latch_spec k w s with ⟨-, h⟩ | ⟨-, h⟩ <;> rw [h]
@[simp] theorem latch_obuf (k : ErrorKind) (w : Word) (s : State) : (latch k w s).obuf = s.obuf := by
  rcases latch_spec k w s with ⟨-, h⟩ | ⟨-, h⟩ <;> rw [h]
@[simp] theorem latch_ports (k : ErrorKind) (w : Word) (s : State) : (latch k w s).ports = s.ports := by
  rcases latch_spec k w s with ⟨-, h⟩ | ⟨-, h⟩ <;> rw [h]
@[simp] theorem latch_host (k : ErrorKind) (w : Word) (s : State) : (latch k w s).host = s.host := by
  rcases latch_spec k w s with ⟨-, h⟩ | ⟨-, h⟩ <;> rw [h]
@[simp] theorem latch_replies (k : ErrorKind) (w : Word) (s : State) : (latch k w s).replies = s.replies := by
  rcases latch_spec k w s with ⟨-, h⟩ | ⟨-, h⟩ <;> rw [h]
@[simp] theorem latch_events (k : ErrorKind) (w : Word) (s : State) : (latch k w s).events = s.events := by
  rcases latch_spec k w s with ⟨-, h⟩ | ⟨-, h⟩ <;> rw [h]
@[simp] theorem latch_draws (k : ErrorKind) (w : Word) (s : State) : (latch k w s).draws = s.draws := by
  rcases latch_spec k w s with ⟨-, h⟩ | ⟨-, h⟩ <;> rw [h]

end Sys2Proof.Machine
end

