-- ==== Sys2Proof/Laws/Ops.lean ====
section
/-! SUPPORT. What each shared operation can do, said once: the checks, the loops, the codebook calls and the
draws, the queues, and the frame of the update functions. -/

namespace Sys2Proof.Machine

/-! ### Checks -/

/-- A command either raises the error its checks found or has its effect (R13, R333). -/
theorem checked_spec (c : Option ErrorKind) (w : Word) (f : State → State) (s : State) :
    (∃ k, c = some k ∧ checked c w f s = latch k w s) ∨ (c = none ∧ checked c w f s = f s) := by
  cases c with
  | none => exact .inr ⟨rfl, rfl⟩
  | some k => exact .inl ⟨k, rfl, rfl⟩

/-! ### The loop -/

section
variable {α : Type}

@[simp] theorem runList_nil (f : α → State → Bytes × State) (s : State) : runList f [] s = ([], s) := rfl

@[simp] theorem runList_cons (f : α → State → Bytes × State) (a : α) (l : List α) (s : State) :
    runList f (a :: l) s =
      ((f a s).1 ++ (runList f l (f a s).2).1, (runList f l (f a s).2).2) := rfl

/-- Running over two lists in turn is running over their concatenation. -/
theorem runList_append (f : α → State → Bytes × State) (l m : List α) (s : State) :
    runList f (l ++ m) s =
      ((runList f l s).1 ++ (runList f m (runList f l s).2).1, (runList f m (runList f l s).2).2) := by
  induction l generalizing s with
  | nil => rfl
  | cons a l ih => simp [ih]

/-- What every round keeps, the whole run keeps. -/
theorem runList_keeps (f : α → State → Bytes × State) (P : State → Prop)
    (h : ∀ a s, P s → P (f a s).2) (l : List α) (s : State) (hs : P s) : P (runList f l s).2 := by
  induction l generalizing s with
  | nil => exact hs
  | cons a l ih => exact ih _ (h a s hs)

/-- A run whose rounds each produce `n` bytes, as long as `P` holds, produces `n` bytes a round. -/
theorem runList_output_length (f : α → State → Bytes × State) (P : State → Prop) (n : Nat)
    (h : ∀ a s, P s → P (f a s).2 ∧ (f a s).1.length = n) (l : List α) (s : State) (hs : P s) :
    (runList f l s).1.length = n * l.length := by
  induction l generalizing s with
  | nil => rfl
  | cons a l ih =>
    obtain ⟨hp, hn⟩ := h a s hs
    rw [runList_cons, List.length_append, hn, ih _ hp, List.length_cons, Nat.mul_succ, Nat.add_comm]

end

/-! ### Codebook calls and draws -/

@[simp] theorem callCb1_encrypting (K : Environment) (x : Bytes) (s : State) :
    callCb1 K .encrypting x s = (K.e1 x, s.log (.e1 x)) := rfl

@[simp] theorem callCb1_decrypting (K : Environment) (x : Bytes) (s : State) :
    callCb1 K .decrypting x s = (K.d1 x, s.log (.d1 x)) := rfl

/-- `D1` keeps the length of a block as well, since `E1` does and undoes it (R7, R14). -/
theorem Environment.d1_length (K : Environment) (x : Bytes) : (K.d1 x).length = x.length := by
  have h := K.e1_length (K.d1 x)
  rw [K.e1_d1] at h
  exact h.symm

/-- A call returns a block of the same size and logs itself (R14). -/
theorem callCb1_spec (K : Environment) (d : Direction) (x : Bytes) (s : State) :
    (callCb1 K d x s).1.length = x.length ∧ ∃ e, (callCb1 K d x s).2 = s.log e := by
  cases d
  · exact ⟨K.e1_length x, _, rfl⟩
  · exact ⟨K.e1_length x, _, rfl⟩
  · exact ⟨Environment.d1_length K x, _, rfl⟩

/-- Everything that n draws do (R64, R306). -/
theorem drawBytes_spec (K : Environment) (n : Nat) (s : State) :
    drawBytes K n s =
      ((List.range n).map (fun j => K.rnd (s.draws + j)),
        { s with
          draws := s.draws + n
          events := s.events ++ (List.range n).map (fun j => Event.draw (K.rnd (s.draws + j))) }) := by
  induction n generalizing s with
  | zero => simp [drawBytes]
  | succ n ih =>
    rw [drawBytes, ih]
    simp [drawByte, List.range_succ_eq_map, Function.comp_def, Nat.add_comm, Nat.add_left_comm]

/-! ### The queues -/

/-- Everything that a push of DIN can do (R86). -/
theorem pushDin_spec (v : Word) (s : State) :
    (s.ibuf.length < s.ports.ibufCap ∧ pushDin v s = { s with ibuf := s.ibuf ++ [v.setWidth 8] }) ∨
    (s.ports.ibufCap ≤ s.ibuf.length ∧ pushDin v s = latch .bufferOverflow pushErrorWord s) := by
  unfold pushDin
  split
  · exact .inl ⟨by assumption, rfl⟩
  · exact .inr ⟨by omega, rfl⟩

/-- Everything that a pop of DOUT can do (R87). -/
theorem popDout_spec (s : State) :
    (s.obuf = [] ∧ popDout s = (doutEmpty, s)) ∨
    (∃ b rest, s.obuf = b :: rest ∧ popDout s = (b.setWidth 32, { s with obuf := rest })) := by
  unfold popDout
  split
  · exact .inr ⟨_, _, by assumption, rfl⟩
  · exact .inl ⟨by assumption, rfl⟩

/-! ### The frame of the updates -/

/-- What an update may touch: the running values, the session's buffers and BYTECOUNT; and it appends to the
event history (R210 to R284). -/
def UpdateFrame (s s' : State) : Prop :=
  ∃ iv ctr t cache ks fb n l, s' =
    { s with iv := iv, ctr := ctr, t := t, cache := cache, ks := ks, fb := fb, byteCount := n,
             events := s.events ++ l }

theorem UpdateFrame.refl (s : State) : UpdateFrame s s :=
  ⟨s.iv, s.ctr, s.t, s.cache, s.ks, s.fb, s.byteCount, [], by simp⟩

theorem UpdateFrame.trans {s u v : State} (h : UpdateFrame s u) (g : UpdateFrame u v) : UpdateFrame s v := by
  obtain ⟨a1, a2, a3, a4, a5, a6, a7, l, rfl⟩ := h
  obtain ⟨b1, b2, b3, b4, b5, b6, b7, m, rfl⟩ := g
  exact ⟨b1, b2, b3, b4, b5, b6, b7, l ++ m, by simp⟩

theorem UpdateFrame.log (s : State) (e : Event) : UpdateFrame s (s.log e) :=
  ⟨s.iv, s.ctr, s.t, s.cache, s.ks, s.fb, s.byteCount, [e], rfl⟩

theorem UpdateFrame.callCb1 (K : Environment) (d : Direction) (x : Bytes) (s : State) :
    UpdateFrame s (callCb1 K d x s).2 := by
  obtain ⟨-, e, h⟩ := callCb1_spec K d x s
  rw [h]
  exact .log s e

/-- A change of the session's own fields is within the frame. -/
theorem UpdateFrame.set {s u : State} (h : UpdateFrame s u) (iv ctr t : Block) (cache ks fb : Bytes)
    (n : Nat) :
    UpdateFrame s
      { u with iv := iv, ctr := ctr, t := t, cache := cache, ks := ks, fb := fb, byteCount := n } :=
  h.trans ⟨iv, ctr, t, cache, ks, fb, n, [], by simp⟩

theorem UpdateFrame.runList {α : Type} (f : α → State → Bytes × State)
    (h : ∀ a s, UpdateFrame s (f a s).2) (l : List α) (s : State) : UpdateFrame s (runList f l s).2 :=
  runList_keeps f (UpdateFrame s) (fun a _ hs => hs.trans (h a _)) l s (.refl s)

theorem cacheUpdate_frame (f : Bytes → State → Bytes × State) (h : ∀ a s, UpdateFrame s (f a s).2)
    (data : Bytes) (s : State) : UpdateFrame s (cacheUpdate f data s).2 :=
  ((UpdateFrame.refl s).set s.iv s.ctr s.t _ s.ks s.fb s.byteCount).trans (.runList f h _ _)

theorem streamByte_frame (refill : State → State) (h : ∀ s, UpdateFrame s (refill s)) (x : Byte) (s : State) :
    UpdateFrame s (streamByte refill x s).2 := by
  have hr : UpdateFrame s (refillIfEmpty refill s) := by
    unfold refillIfEmpty
    split
    · exact h s
    · exact .refl s
  exact hr.set _ _ _ _ _ _ _

theorem streamUpdate_frame (f : Byte → State → Bytes × State) (h : ∀ a s, UpdateFrame s (f a s).2)
    (data : Bytes) (s : State) : UpdateFrame s (streamUpdate f data s).2 :=
  (UpdateFrame.runList f h data s).set _ _ _ _ _ _ _

theorem shiftCfb_frame (s : State) : UpdateFrame s (shiftCfb s) := by
  unfold shiftCfb
  split
  · exact (UpdateFrame.refl s).set _ _ _ _ _ _ _
  · exact .refl s

theorem cfbByte_frame (K : Environment) (d : Direction) (x : Byte) (s : State) :
    UpdateFrame s (cfbByte K d x s).2 :=
  ((streamByte_frame (refillCfb K) (fun u => (UpdateFrame.log u _).set _ _ _ _ _ _ _) x s).set
    _ _ _ _ _ _ _).trans (shiftCfb_frame _)

theorem xtsBlock_frame (K : Environment) (d : Direction) (t : Block) (x : Bytes) (s : State) :
    UpdateFrame s (xtsBlock K d t x s).2 := .callCb1 K d _ s

theorem xtsRound_frame (K : Environment) (d : Direction) (x : Bytes) (s : State) :
    UpdateFrame s (xtsRound K d x s).2 := (xtsBlock_frame K d s.t x s).set _ _ _ _ _ _ _

theorem xtsSteal_frame (K : Environment) (d : Direction) (x1 x2 : Bytes) (s : State) :
    UpdateFrame s (xtsSteal K d x1 x2 s).2 :=
  ((xtsBlock_frame K d _ x1 s).trans (xtsBlock_frame K d _ _ _)).set _ _ _ _ _ _ _

theorem cmacChain_frame (K : Environment) (l : List Bytes) (x : Bytes) (s : State) :
    UpdateFrame s (cmacChain K l x s).2 := by
  induction l generalizing x s with
  | nil => exact .refl s
  | cons b l ih => exact (UpdateFrame.log s _).trans (ih _ _)

theorem updateXts_frame (K : Environment) (d : Direction) (data : Bytes) (s : State) :
    UpdateFrame s (updateXts K d data s).2 := by
  have h0 : ∀ t, UpdateFrame s { s.log (.e2 (tweakBlock s)) with t := t } := fun t =>
    (UpdateFrame.log s _).set _ _ t _ _ _ _
  simp only [updateXts]
  split
  · exact (h0 _).trans (.runList _ (xtsRound_frame K d) _ _)
  · exact ((h0 _).trans (.runList _ (xtsRound_frame K d) _ _)).trans (xtsSteal_frame K d _ _ _)

/-- The frame of every update, in every mode. -/
theorem update_frame (K : Environment) (d : Direction) (data : Bytes) (s : State) :
    UpdateFrame s (update K d data s).2 := by
  unfold update
  split
  · exact .refl s
  · exact cacheUpdate_frame _ (.callCb1 K d) data s
  · have he : ∀ a u, UpdateFrame u (cbcEncryptBlock K a u).2 := fun a u =>
      (UpdateFrame.log u _).set _ _ _ _ _ _ _
    have hd : ∀ a u, UpdateFrame u (cbcDecryptBlock K a u).2 := fun a u =>
      (UpdateFrame.log u _).set _ _ _ _ _ _ _
    cases d
    · exact cacheUpdate_frame _ he data s
    · exact cacheUpdate_frame _ he data s
    · exact cacheUpdate_frame _ hd data s
  · exact streamUpdate_frame _ (cfbByte_frame K d) data s
  · exact streamUpdate_frame _
      (fun x u => streamByte_frame _ (fun v => (UpdateFrame.log v _).set _ _ _ _ _ _ _) x u) data s
  · exact streamUpdate_frame _
      (fun x u => streamByte_frame _
        (fun v => ⟨v.iv, v.ctr + 1, v.t, v.cache, _, v.fb, v.byteCount, _, rfl⟩) x u) data s
  · exact updateXts_frame K d data s
  · exact (cmacChain_frame K _ _ s).trans (.log _ _)

/-- Feeding data to the session touches OBUF and what the updates touch. -/
theorem feed_frame (K : Environment) (d : Direction) (data : Bytes) (s : State) :
    ∃ iv ctr t cache ks fb n l out, feed K d data s =
      { s with iv := iv, ctr := ctr, t := t, cache := cache, ks := ks, fb := fb, byteCount := n,
               events := s.events ++ l, obuf := s.obuf ++ out } := by
  obtain ⟨iv, ctr, t, cache, ks, fb, n, l, h⟩ := update_frame K d data s
  exact ⟨iv, ctr, t, cache, ks, fb, n, l, (update K d data s).1, by rw [feed, h]⟩

/-- Everything that ENC and DEC can do: raise the error of the checks, or feed IBUF to the session (R202). -/
theorem crypt_spec (K : Environment) (d : Direction) (w : Word) (s : State) :
    (∃ k, cryptCheck d s = some k ∧ crypt K d w s = latch k w s) ∨
    (cryptCheck d s = none ∧ crypt K d w s = feed K d s.ibuf { s with dir := d, ibuf := [] }) :=
  checked_spec _ _ _ _

/-- Everything that FINAL can do (R317). -/
theorem final_spec (K : Environment) (p : PadScheme) (w : Word) (s : State) :
    (finalLegal s.mode = false ∧ final K p w s = latch .illegalCommand w s) ∨
    (finalLegal s.mode = true ∧ s.dir ≠ .encrypting ∧ final K p w s = s) ∨
    (finalLegal s.mode = true ∧ s.dir = .encrypting ∧ finalSpace p s = some .bufferOverflow ∧
      final K p w s = latch .bufferOverflow w s) ∨
    (finalLegal s.mode = true ∧ s.dir = .encrypting ∧ finalSpace p s = none ∧
      final K p w s = finalEffect K p s) := by
  unfold final
  split
  · rename_i hl
    split
    · rename_i hd
      exact .inr (.inl ⟨hl, by simp [hd], rfl⟩)
    · rename_i hd
      exact .inr (.inl ⟨hl, by simp [hd], rfl⟩)
    · rename_i hd
      rcases checked_spec (finalSpace p s) w (finalEffect K p) s with ⟨k, hk, h⟩ | ⟨hk, h⟩
      · have : k = .bufferOverflow := by
          unfold finalSpace at hk
          split at hk
          · exact (Option.some.inj hk).symm
          · cases hk
        subst this
        exact .inr (.inr (.inl ⟨hl, hd, hk, h⟩))
      · exact .inr (.inr (.inr ⟨hl, hd, hk, h⟩))
  · rename_i hl
    exact .inl ⟨by simpa using hl, rfl⟩

/-- The padding bytes and the state after them (R300 to R306): only draws are made. -/
theorem padBytes_frame (K : Environment) (p : PadScheme) (len bs : Nat) (s : State) :
    ∃ n l, (padBytes K p len bs s).2 = { s with draws := s.draws + n, events := s.events ++ l } := by
  cases p
  case iso10126 => exact ⟨_, _, congrArg Prod.snd (drawBytes_spec K (npad len bs - 1) s)⟩
  all_goals exact ⟨0, [], by simp [padBytes]⟩

/-- Everything that FINAL's effect touches: what the updates touch, OBUF and the draws; not IBUF, MODE or DIR
(R317). -/
theorem finalEffect_frame (K : Environment) (p : PadScheme) (s : State) :
    ∃ iv ctr t cache ks fb n l out d, finalEffect K p s =
      { s with iv := iv, ctr := ctr, t := t, cache := cache, ks := ks, fb := fb, byteCount := n,
               events := s.events ++ l, obuf := s.obuf ++ out, draws := s.draws + d } := by
  obtain ⟨d, m, hp⟩ := padBytes_frame K p (finalLength s) s.blockSize s
  obtain ⟨iv, ctr, t, cache, ks, fb, n, l, out, h⟩ :=
    feed_frame K .encrypting (padBytes K p (finalLength s) s.blockSize s).1
      (padBytes K p (finalLength s) s.blockSize s).2
  refine ⟨iv, ctr, t, cache, ks, fb, n, m ++ l, out, d, ?_⟩
  simp only [finalEffect]
  rw [h, hp]
  simp

end Sys2Proof.Machine
end

