-- ==== Sys2Proof/Laws/PerInstr.lean ====
section
/-! SUPPORT. Statements made for every command, one lemma for each constructor of Instr. -/

namespace Sys2Proof.Laws.TableMatch

/-- The match and the mask of a command's row of spec/opcode_table.json. -/
def row : Instr → Word × Word
  | .nop => (0x00000000#32, 0xFFFFFFFF#32)
  | .initEcb => (0x00000101#32, 0xFFFFFFFF#32)
  | .initCbc => (0x00000201#32, 0xFFFFFFFF#32)
  | .initCfb _ => (0x00000301#32, 0xFFE0FFFF#32)
  | .initOfb => (0x00000401#32, 0xFFFFFFFF#32)
  | .initCtr => (0x00000501#32, 0xFFFFFFFF#32)
  | .initXts => (0x00000601#32, 0xFFFFFFFF#32)
  | .initCmac => (0x00000701#32, 0xFFFFFFFF#32)
  | .enc => (0x00000002#32, 0xFFFFFFFF#32)
  | .dec => (0x00000003#32, 0xFFFFFFFF#32)
  | .finalBitPadding => (0x00000004#32, 0xFFFFFFFF#32)
  | .finalZerosPadding => (0x00000104#32, 0xFFFFFFFF#32)
  | .finalPkcs7 => (0x00000204#32, 0xFFFFFFFF#32)
  | .finalAnsiX923 => (0x00000304#32, 0xFFFFFFFF#32)
  | .finalIso10126 => (0x00000404#32, 0xFFFFFFFF#32)
  | .flushi => (0x00000005#32, 0xFFFFFFFF#32)
  | .flusho => (0x00000006#32, 0xFFFFFFFF#32)
  | .clrerr => (0x00000007#32, 0xFFFFFFFF#32)
  | .reset => (0x00000008#32, 0xFFFFFFFF#32)
  | .gfmul => (0x00000010#32, 0xFFFFFFFF#32)
  | .gfpow2 => (0x00000011#32, 0xFFFFFFFF#32)
  | .gfdbl => (0x00000012#32, 0xFFFFFFFF#32)
  | .gfdbl64 => (0x00000112#32, 0xFFFFFFFF#32)

/-- The command word of a command has its row's bits wherever the row's mask is set. -/
def Statement (i : Instr) : Prop := encode i &&& (row i).2 = (row i).1

theorem nop : Statement .nop := by unfold Statement; decide

theorem initEcb : Statement .initEcb := by unfold Statement; decide

theorem initCbc : Statement .initCbc := by unfold Statement; decide

theorem initCfb (seg : BitVec 5) : Statement (.initCfb seg) := by
  unfold Statement encode row
  revert seg
  decide

theorem initOfb : Statement .initOfb := by unfold Statement; decide

theorem initCtr : Statement .initCtr := by unfold Statement; decide

theorem initXts : Statement .initXts := by unfold Statement; decide

theorem initCmac : Statement .initCmac := by unfold Statement; decide

theorem enc : Statement .enc := by unfold Statement; decide

theorem dec : Statement .dec := by unfold Statement; decide

theorem finalBitPadding : Statement .finalBitPadding := by unfold Statement; decide

theorem finalZerosPadding : Statement .finalZerosPadding := by unfold Statement; decide

theorem finalPkcs7 : Statement .finalPkcs7 := by unfold Statement; decide

theorem finalAnsiX923 : Statement .finalAnsiX923 := by unfold Statement; decide

theorem finalIso10126 : Statement .finalIso10126 := by unfold Statement; decide

theorem flushi : Statement .flushi := by unfold Statement; decide

theorem flusho : Statement .flusho := by unfold Statement; decide

theorem clrerr : Statement .clrerr := by unfold Statement; decide

theorem reset : Statement .reset := by unfold Statement; decide

theorem gfmul : Statement .gfmul := by unfold Statement; decide

theorem gfpow2 : Statement .gfpow2 := by unfold Statement; decide

theorem gfdbl : Statement .gfdbl := by unfold Statement; decide

theorem gfdbl64 : Statement .gfdbl64 := by unfold Statement; decide

end Sys2Proof.Laws.TableMatch
end

