-- ==== Sys2Proof/Laws/Step.lean ====
section
/-! SUPPORT. What issuing a command, serving an access and taking a step can do, each said once. -/

namespace Sys2Proof.Machine

/-- Every command answers a next state: none stops the machine. -/
theorem exec_answers_next (i : Instr) (s : State) : ∃ s', exec i s = .next s' := by
  cases i <;> exact ⟨_, rfl⟩

/-- Everything that INIT of a mode can do (R171, R180). -/
theorem initSession_spec (m : Mode) (w : Word) (own : State → State) (s : State) :
    (∃ k, initCheck m s = some k ∧ initSession m w own s = latch k w s) ∨
    (initCheck m s = none ∧ initSession m w own s = own (startSession m s)) :=
  checked_spec _ _ _ _

/-- No command touches the host's side: the waiting accesses, the replies and the port signals. -/
def HostSideKept (s s' : State) : Prop :=
  s'.host = s.host ∧ s'.replies = s.replies ∧ s'.ports = s.ports

theorem HostSideKept.latch (k : ErrorKind) (w : Word) (s : State) : HostSideKept s (latch k w s) := by
  simp [HostSideKept]

theorem HostSideKept.initSession (m : Mode) (w : Word) (own : State → State)
    (h : ∀ u, HostSideKept u (own u)) (s : State) : HostSideKept s (initSession m w own s) := by
  rcases initSession_spec m w own s with ⟨k, -, g⟩ | ⟨-, g⟩ <;> rw [g]
  · exact .latch k w s
  · exact h (startSession m s)

theorem HostSideKept.crypt (K : Environment) (d : Direction) (w : Word) (s : State) :
    HostSideKept s (crypt K d w s) := by
  rcases crypt_spec K d w s with ⟨k, -, g⟩ | ⟨-, g⟩ <;> rw [g]
  · exact .latch k w s
  · obtain ⟨_, _, _, _, _, _, _, _, _, h⟩ := feed_frame K d s.ibuf { s with dir := d, ibuf := [] }
    rw [h]
    exact ⟨rfl, rfl, rfl⟩

theorem HostSideKept.final (K : Environment) (p : PadScheme) (w : Word) (s : State) :
    HostSideKept s (final K p w s) := by
  rcases final_spec K p w s with ⟨-, g⟩ | ⟨-, -, g⟩ | ⟨-, -, -, g⟩ | ⟨-, -, -, g⟩ <;> rw [g]
  · exact .latch _ w s
  · exact ⟨rfl, rfl, rfl⟩
  · exact .latch _ w s
  · obtain ⟨_, _, _, _, _, _, _, _, _, _, h⟩ := finalEffect_frame K p s
    rw [h]
    exact ⟨rfl, rfl, rfl⟩

theorem exec_keeps_host_side (i : Instr) (s s' : State) (h : exec i s = .next s') : HostSideKept s s' := by
  have hid : ∀ u : State, HostSideKept u (id u) := fun u => ⟨rfl, rfl, rfl⟩
  cases i <;> cases h
  case initEcb => exact .initSession _ _ _ hid s
  case initCbc => exact .initSession _ _ _ hid s
  case initCfb seg =>
    split
    · exact .latch _ _ s
    · refine .initSession _ _ _ ?_ s
      exact fun _ => ⟨rfl, rfl, rfl⟩
  case initOfb => exact .initSession _ _ _ hid s
  case initCtr => exact .initSession _ _ _ hid s
  case initXts => exact .initSession _ _ _ hid s
  case initCmac => exact .initSession _ _ (deriveSubkeys Config.env) (fun _ => ⟨rfl, rfl, rfl⟩) s
  case enc => exact .crypt _ _ _ s
  case dec => exact .crypt _ _ _ s
  case finalBitPadding => exact .final _ _ _ s
  case finalZerosPadding => exact .final _ _ _ s
  case finalPkcs7 => exact .final _ _ _ s
  case finalAnsiX923 => exact .final _ _ _ s
  case finalIso10126 => exact .final _ _ _ s
  all_goals exact ⟨rfl, rfl, rfl⟩

/-- Everything that a write of CMD can do (R110). -/
theorem issue_spec (w : Word) (s : State) :
    (blocked w s = true ∧ issue w s = .next s) ∨
    (blocked w s = false ∧ ∃ i, decode s.ports.bs1 w = .command i ∧ issue w s = exec i s) ∨
    (blocked w s = false ∧ (∃ r, decode s.ports.bs1 w = .illegal r) ∧
      issue w s = .next (latch .illegalCommand w s)) := by
  unfold issue
  split
  · exact .inl ⟨by assumption, rfl⟩
  · have hb : blocked w s = false := by simp_all
    split
    · exact .inr (.inl ⟨hb, _, by assumption, rfl⟩)
    · exact .inr (.inr ⟨hb, ⟨_, by assumption⟩, rfl⟩)

/-- When a word is blocked (R110, R335). -/
theorem blocked_iff (w : Word) (s : State) :
    blocked w s = true ↔ s.err ≠ none ∧ w ≠ 0x07#32 ∧ w ≠ 0x08#32 := by
  cases h : s.err <;> simp [blocked, h, encode]

/-- Everything that an access at an offset can do (R72, R73). -/
theorem atOffset_spec (off : Nat) (act : Host.Outcome State Fault Refusal) :
    (off % 4 ≠ 0 ∧ atOffset off act = .refused .busErrorMisaligned) ∨
    (off % 4 = 0 ∧ 0x100 ≤ off ∧ atOffset off act = .fault .outsideRegisterSpace) ∨
    (off % 4 = 0 ∧ off < 0x100 ∧ atOffset off act = act) := by
  unfold atOffset
  split
  · exact .inl ⟨by assumption, rfl⟩
  · split
    · exact .inr (.inl ⟨by omega, by assumption, rfl⟩)
    · exact .inr (.inr ⟨by omega, by omega, rfl⟩)

/-- CMD is the one offset that issues commands (R112). -/
theorem slotAt_eq_cmd (off : Nat) : slotAt off = .cmd ↔ off = 0x08 := by
  constructor
  · intro h
    unfold slotAt at h
    split at h <;> first | rfl | cases h | (split at h <;> cases h)
  · rintro rfl
    rfl

/-- The offsets of the block registers hold their words (R71, R112). -/
theorem slotAt_block (r : BlockReg) (k : Nat) (h : k < 4) : slotAt (r.base + 4 * k) = .block r k := by
  match k, h with
  | 0, _ => cases r <;> rfl
  | 1, _ => cases r <;> rfl
  | 2, _ => cases r <;> rfl
  | 3, _ => cases r <;> rfl

/-- Everything that a 32-bit write can do (R42, R84). -/
theorem writeAccess_spec (off : Nat) (v : Word) (s : State) :
    (off = 0x08 ∧ writeAccess off v s = issue v s) ∨
    (off ≠ 0x08 ∧ writeAccess off v s = .next (writeSlot (slotAt off) v s)) := by
  unfold writeAccess
  split
  · exact .inl ⟨(slotAt_eq_cmd off).mp (by assumption), rfl⟩
  · exact .inr ⟨fun h => by simp_all [slotAt_eq_cmd], rfl⟩

/-- A step that answers a next state: nothing waited, or a read, a command, another write or the reset input
was served. -/
theorem step_cases {s s' : State} (h : step s = .next s') :
    (s.host = [] ∧ s' = s) ∨
    ∃ rest, (∃ off, s.host = .read off :: rest ∧ off % 4 = 0 ∧ off < 0x100 ∧
        s' = readSlot (slotAt off) { s with host := rest }) ∨
      (∃ w, s.host = .write 0x08 w :: rest ∧ issue w { s with host := rest } = .next s') ∨
      (∃ off v, s.host = .write off v :: rest ∧ off % 4 = 0 ∧ off < 0x100 ∧ off ≠ 0x08 ∧
        s' = writeSlot (slotAt off) v { s with host := rest }) ∨
      (s.host = .resetInput :: rest ∧ s' = resetUnit { s with host := rest }) := by
  unfold step at h
  split at h
  · rename_i hh
    cases h
    exact .inl ⟨hh, rfl⟩
  · rename_i e rest hh
    refine .inr ⟨rest, ?_⟩
    cases e with
    | read off =>
      simp only [serve] at h
      rcases atOffset_spec off (.next (readSlot (slotAt off) { s with host := rest })) with
        ⟨-, g⟩ | ⟨-, -, g⟩ | ⟨h4, hl, g⟩ <;> rw [g] at h <;> cases h
      exact .inl ⟨off, hh, h4, hl, rfl⟩
    | write off v =>
      simp only [serve] at h
      rcases atOffset_spec off (writeAccess off v { s with host := rest }) with
        ⟨-, g⟩ | ⟨-, -, g⟩ | ⟨h4, hl, g⟩ <;> rw [g] at h
      · cases h
      · cases h
      · rcases writeAccess_spec off v { s with host := rest } with ⟨rfl, g⟩ | ⟨hne, g⟩ <;> rw [g] at h
        · exact .inr (.inl ⟨v, hh, h⟩)
        · cases h
          exact .inr (.inr (.inl ⟨off, v, hh, h4, hl, hne, rfl⟩))
    | otherWidth b n off => cases h
    | resetInput =>
      cases h
      exact .inr (.inr (.inr ⟨hh, rfl⟩))

end Sys2Proof.Machine
end

