-- ==== Sys2Proof/Tests/Slice0.lean ====
section
/-! SUPPORT. The package's own tests. V-numbers are the vectors of spec/95_test_vectors.md, whose toy codebook
(its section 2) stands below. The last part shows, for every statement with hypotheses, a concrete case that
meets them. -/

set_option maxRecDepth 20000

namespace Sys2Proof.Tests

open Sys2Proof.Machine Sys2Proof.Expected

/-! ### Well-formedness -/

theorem test_wellFormed_refuses_long_segment : wellFormed 16 (.initCfb 17) = false := by decide

theorem test_wellFormed_accepts_full_segment :
    wellFormed 16 (.initCfb 16) = true ∧ wellFormed 16 (.initCfb 0) = true := by decide

/-! ### Decoding: words written out from spec/30_encoding.md -/

/-- Format N (R111, R113): OPC in bits 7:0, the rest 0. -/
theorem test_decode_format_n :
    decode 16 0b0000_0000_0000_0000_0000_0000_0000_0000#32 = .command .nop ∧
    decode 16 0b0000_0000_0000_0000_0000_0000_0000_0010#32 = .command .enc ∧
    decode 16 0b0000_0000_0000_0000_0000_0000_0000_0011#32 = .command .dec ∧
    decode 16 0b0000_0000_0000_0000_0000_0000_0000_0101#32 = .command .flushi ∧
    decode 16 0b0000_0000_0000_0000_0000_0000_0000_0110#32 = .command .flusho ∧
    decode 16 0b0000_0000_0000_0000_0000_0000_0000_0111#32 = .command .clrerr ∧
    decode 16 0b0000_0000_0000_0000_0000_0000_0000_1000#32 = .command .reset ∧
    decode 16 0b0000_0000_0000_0000_0000_0000_0001_0000#32 = .command .gfmul ∧
    decode 16 0b0000_0000_0000_0000_0000_0000_0001_0001#32 = .command .gfpow2 := by decide

/-- Format M (R111, R115): MODE in bits 11:8, SEG in bits 20:16. -/
theorem test_decode_format_m :
    decode 16 0b0000_0000_0000_0000_0000_0001_0000_0001#32 = .command .initEcb ∧
    decode 16 0b0000_0000_0000_0000_0000_0010_0000_0001#32 = .command .initCbc ∧
    decode 16 0b0000_0000_0000_1010_0000_0011_0000_0001#32 = .command (.initCfb 10) ∧
    decode 16 0b0000_0000_0000_0000_0000_0100_0000_0001#32 = .command .initOfb ∧
    decode 16 0b0000_0000_0000_0000_0000_0101_0000_0001#32 = .command .initCtr ∧
    decode 16 0b0000_0000_0000_0000_0000_0110_0000_0001#32 = .command .initXts ∧
    decode 16 0b0000_0000_0000_0000_0000_0111_0000_0001#32 = .command .initCmac := by decide

/-- Format P (R111, R116, R122): PAD in bits 10:8. -/
theorem test_decode_format_p :
    decode 16 0b0000_0000_0000_0000_0000_0000_0000_0100#32 = .command .finalBitPadding ∧
    decode 16 0b0000_0000_0000_0000_0000_0001_0000_0100#32 = .command .finalZerosPadding ∧
    decode 16 0b0000_0000_0000_0000_0000_0010_0000_0100#32 = .command .finalPkcs7 ∧
    decode 16 0b0000_0000_0000_0000_0000_0011_0000_0100#32 = .command .finalAnsiX923 ∧
    decode 16 0b0000_0000_0000_0000_0000_0100_0000_0100#32 = .command .finalIso10126 := by decide

/-- Format G (R111, R117): W in bit 8. -/
theorem test_decode_format_g :
    decode 16 0b0000_0000_0000_0000_0000_0000_0001_0010#32 = .command .gfdbl ∧
    decode 16 0b0000_0000_0000_0000_0000_0001_0001_0010#32 = .command .gfdbl64 := by decide

/-- V128, V128b, V135 and the ends of the reserved ranges (R118 to R120). -/
theorem test_decode_rejects_by_name :
    decode 16 0x00000009#32 = .illegal .reservedOpcode ∧ decode 16 0x0000000F#32 = .illegal .reservedOpcode ∧
    decode 16 0x00000013#32 = .illegal .reservedOpcode ∧ decode 16 0x000000FF#32 = .illegal .reservedOpcode ∧
    decode 16 0x00000107#32 = .illegal .reservedBits ∧ decode 16 0x00001101#32 = .illegal .reservedBits ∧
    decode 16 0x00000001#32 = .illegal .reservedMode ∧ decode 16 0x00000801#32 = .illegal .reservedMode ∧
    decode 16 0x00010101#32 = .illegal .segOutsideCfb ∧ decode 16 0x00110301#32 = .illegal .segTooLong ∧
    decode 16 0x00000504#32 = .illegal .reservedPad ∧ decode 16 0x00000212#32 = .illegal .reservedBits := by
  decide

theorem test_decodeTableWord :
    decodeTableWord 32 0x00040301 = some (.initCfb 4) ∧ decodeTableWord 32 0x00000112 = some .gfdbl64 ∧
    decodeTableWord 32 0x00000013 = none := by decide

/-- The word placed for the next step is the one that runs (log entry 5). -/
theorem test_withFetchWord_runs : step (State.reset.withFetchWord 32 0x00000101) = exec .initEcb State.reset := rfl

/-! ### The toy codebook of spec/95_test_vectors.md, section 2 -/

/-- n bytes counting up from c. -/
def counting (c n : Nat) : Bytes := (List.range n).map fun j => BitVec.ofNat 8 (c + j)

/-- TOYE: rotate left by one byte, then XOR 0xA5, 0xA6, ... -/
def toyE (x : Bytes) : Bytes := xorBytes (x.rotate 1) (counting 0xA5 x.length)

/-- TOYD, its inverse. -/
def toyD (y : Bytes) : Bytes := (xorBytes y (counting 0xA5 y.length)).rotate (y.length - 1)

/-- TOYE2: reverse, then XOR 0x3C, 0x3D, ... -/
def toyE2 (x : Bytes) : Bytes := xorBytes x.reverse (counting 0x3C x.length)

theorem counting_length (c n : Nat) : (counting c n).length = n := by simp [counting]

theorem toyE_length (x : Bytes) : (toyE x).length = x.length := by simp [toyE, counting_length]

theorem toyD_length (x : Bytes) : (toyD x).length = x.length := by simp [toyD, counting_length]

/-- Rotating by one and then by the rest of the length is no rotation. -/
theorem rotate_whole (x y : Bytes) (h : y.length = x.length) :
    (x.rotate 1).rotate (y.length - 1) = x ∧ (x.rotate (y.length - 1)).rotate 1 = x := by
  rw [h, List.rotate_rotate, List.rotate_rotate]
  rcases x with _ | ⟨a, x⟩
  · exact ⟨rfl, rfl⟩
  · have h1 : 1 + ((a :: x).length - 1) = (a :: x).length := by simp; omega
    have h2 : (a :: x).length - 1 + 1 = (a :: x).length := by simp
    rw [h1, h2, List.rotate_length]
    exact ⟨rfl, rfl⟩

theorem toyD_toyE (x : Bytes) : toyD (toyE x) = x := by
  rw [toyD, toyE_length, toyE, xorBytes_xorBytes _ _ (by simp [counting_length])]
  exact (rotate_whole x x rfl).1

theorem toyE_toyD (x : Bytes) : toyE (toyD x) = x := by
  have h := (rotate_whole (xorBytes x (counting 0xA5 x.length)) x (by simp [counting_length])).2
  rw [toyE, toyD_length, toyD, h, xorBytes_xorBytes _ _ (by simp [counting_length])]

/-- The toy codebooks, and RND delivering d1, d2, d3, ... -/
def toy : Environment where
  e1 := toyE
  d1 := toyD
  e2 := toyE2
  rnd n := BitVec.ofNat 8 (0xD1 + n)
  e1_length := toyE_length
  e2_length x := by simp [toyE2, counting_length]
  d1_e1 := toyD_toyE
  e1_d1 := toyE_toyD

/-- T4, T6, T8. -/
theorem test_toy_codebooks :
    toyD (counting 0 16) = int2be 0xbba5a7a5abadafadaba5a7a5bbbdbfbd 16 ∧
    toyE2 (counting 0 16) = int2be 0x333333334b4b4b4b434343434b4b4b4b 16 ∧
    toyE (counting 0 8) = int2be 0xa4a4a4acacacacac 8 := by decide

/-! ### Small states -/

/-- A session of a mode as INIT leaves it after reset, CFB with the full block. -/
def session (m : Mode) : State :=
  { startSession m State.reset with seg := if m = .cfb then 16 else 0 }

/-- The IV of the vectors. -/
def stdIv : Block := 0xf0e0d0c0b0a090807060504030201000#128

/-- ENC of `data` with the toy codebook. -/
def toyEnc (data : Bytes) (s : State) : State := crypt toy .encrypting (encode .enc) { s with ibuf := data }

/-- DEC of `data` with the toy codebook. -/
def toyDec (data : Bytes) (s : State) : State := crypt toy .decrypting (encode .dec) { s with ibuf := data }

/-- FINAL with the toy codebook, in ECB with the bytes 01 02 03 in CACHE, as in V13. -/
def toyFinal (p : PadScheme) : State :=
  final toy p (encode (finalInstr p)) { session .ecb with dir := .encrypting, cache := counting 1 3 }

/-! ### One step of each command -/

theorem test_nop (s : State) : exec .nop s = .next s := rfl

/-- V124. -/
theorem test_init_ecb_invalid_key :
    let s := { State.reset with ports := { Ports.reference with keyOk1 := false } }
    ∃ t, exec .initEcb s = .next t ∧ statusWord t = 0x00000001#32 ∧ t.errcmd = 0x00000101#32 := ⟨_, rfl, by decide⟩

/-- V62. -/
theorem test_init_status_with_iv :
    let s := { State.reset with ivLen := 16 }
    (∃ t, exec .initEcb s = .next t ∧ statusWord t = 0x00100010#32) ∧
    (∃ t, exec .initCbc s = .next t ∧ statusWord t = 0x00100020#32) ∧
    (∃ t, exec (.initCfb 0) s = .next t ∧ statusWord t = 0x10100030#32) ∧
    (∃ t, exec (.initCfb 1) s = .next t ∧ statusWord t = 0x01100030#32) ∧
    (∃ t, exec .initOfb s = .next t ∧ statusWord t = 0x00100040#32) :=
  ⟨⟨_, rfl, by decide⟩, ⟨_, rfl, by decide⟩, ⟨_, rfl, by decide⟩, ⟨_, rfl, by decide⟩, ⟨_, rfl, by decide⟩⟩

/-- V120, V126: the parameter is missing. -/
theorem test_init_missing_parameter :
    (∃ t, exec .initCbc State.reset = .next t ∧ statusWord t = 0x00000002#32 ∧ t.errcmd = 0x00000201#32) ∧
    (∃ t, exec .initCtr State.reset = .next t ∧ statusWord t = 0x00000002#32 ∧ t.errcmd = 0x00000501#32) :=
  ⟨⟨_, rfl, by decide⟩, ⟨_, rfl, by decide⟩⟩

/-- V63, V64. -/
theorem test_init_ctr_xts :
    (∃ t, exec .initCtr { State.reset with ctrSet := true } = .next t ∧ statusWord t = 0x00100050#32) ∧
    (∃ t, exec .initXts State.reset = .next t ∧ statusWord t = 0x00100060#32) :=
  ⟨⟨_, rfl, by decide⟩, ⟨_, rfl, by decide⟩⟩

/-- V23. -/
theorem test_init_cmac_subkeys :
    (initCmac toy State.reset).subk1 = 0x4b4d4f51535557595b5d5f61636567ef#128 ∧
    (initCmac toy State.reset).subk2 = 0x969a9ea2a6aaaeb2b6babec2c6cacfde#128 ∧
    statusWord (initCmac toy State.reset) = 0x00100070#32 := by decide

/-- V27: 8-byte blocks. -/
theorem test_init_cmac_subkeys_8 :
    let s := initCmac toy { State.reset with ports := { Ports.reference with bs1 := 8 } }
    s.subk1 = 0x4b4d4f51535557430000000000000000#128 ∧ s.subk2 = 0x969a9ea2a6aaae860000000000000000#128 := by
  decide

/-- V10, V18. -/
theorem test_enc_ecb_cbc :
    (let s := toyEnc (counting 0 20) (session .ecb)
     s.obuf = int2be 0xa4a4a4acacacaca4a4a4a4bcbcbcbcb4 16 ∧ s.cache = counting 0x10 4 ∧
       statusWord s = 0x00100110#32 ∧ bufstatWord s = 0x00000004#32) ∧
    (let s := toyEnc (counting 0 32) { session .cbc with iv := stdIv }
     s.obuf = int2be 0x4474641c0c3c2cd4c4f4e48c9cacbc44c0d0a8b080906870405038300010e8e0 32 ∧
       s.iv = 0xc0d0a8b080906870405038300010e8e0#128) := by decide

/-- V74, V75, V79, V33 and the second message of V24. -/
theorem test_enc_cfb_ofb_ctr_xts_cmac :
    (let s := toyEnc (counting 0 6) { session .cfb with iv := stdIv, seg := 4 }
     s.obuf = int2be 0x4577651b0133 6 ∧ s.iv = 0xb0a0908070605040302010004577651b#128 ∧
       bufstatWord s = 0x06020200#32) ∧
    (let s := toyEnc (counting 0 5) { session .ofb with iv := stdIv }
     s.obuf = int2be 0x4577651b0d 5 ∧ s.iv = 0x45766718093a2bdccdfeef8091a2b344#128) ∧
    (let s := toyEnc (zeros 20) { session .ctr with ctr := 0xfffffffe }
     s.obuf = int2be 0xa5a6a7a8a9aaabacadaeaf4f4e4d4db4a5a6a7a8 20 ∧ s.ctr = 0x100000000#128) ∧
    (let s := toyEnc (counting 0x40 21)
        { session .xts with tweak := 0x1234ffff000000000000000000000000#128, tweakLen := 2 }
     s.obuf = int2be 0xf6f2f60244414a47484d5e5378076c2ee5e7e593ed 21 ∧
       s.t = 0xb2fc92908e8c8a88868482807e7c7a78#128) ∧
    (toyEnc (counting 0 16) (initCmac toy State.reset)).obuf = int2be 0xe9ebf5fff9fbf5fff9fbc5dfd9db53ff 16 := by
  decide

/-- V15, V72, V33d. -/
theorem test_dec_ecb_cfb_xts :
    (toyDec (int2be 0xa4a4a4acacacaca4a4a4a4bcbcbcbcb4 16) (session .ecb)).obuf = counting 0 16 ∧
    (toyDec (int2be 0x4577651b0d3f2ddbc5f7e58b9dafbd4bc2d2aeb6 20) { session .cfb with iv := stdIv }).obuf =
      counting 0 20 ∧
    (toyDec (int2be 0xf6f2f60244414a47484d5e5378076c2ee5e7e593ed 21)
      { session .xts with tweak := 0x1234ffff000000000000000000000000#128, tweakLen := 2 }).obuf =
      counting 0x40 21 := by decide

/-- V12, V29b. -/
theorem test_dec_errors :
    (∃ t, exec .dec { session .ecb with dir := .encrypting } = .next t ∧ statusWord t = 0x00100117#32) ∧
    (∃ t, exec .dec (session .cmac) = .next t ∧ statusWord t = 0x00100079#32 ∧ t.errcmd = 0x00000003#32) :=
  ⟨⟨_, rfl, by decide⟩, ⟨_, rfl, by decide⟩⟩

/-- V13. -/
theorem test_final_bit_padding :
    (toyFinal .bitPadding).obuf = int2be 0xa7a527a8a9aaabacadaeafb0b1b2b3b5 16 ∧
      (toyFinal .bitPadding).cache = [] := by decide

/-- V13. -/
theorem test_final_zeros_padding :
    (toyFinal .zerosPadding).obuf = int2be 0xa7a5a7a8a9aaabacadaeafb0b1b2b3b5 16 := by decide

/-- V13. -/
theorem test_final_pkcs7 :
    (toyFinal .pkcs7).obuf = int2be 0xa7a5aaa5a4a7a6a1a0a3a2bdbcbfbeb5 16 := by decide

/-- V13. -/
theorem test_final_ansi_x923 :
    (toyFinal .ansiX923).obuf = int2be 0xa7a5a7a8a9aaabacadaeafb0b1b2beb5 16 := by decide

/-- V13: twelve draws. -/
theorem test_final_iso_10126 :
    (toyFinal .iso10126).obuf = int2be 0xa7a5767a7a7e7e7a7a76766a6a6ebeb5 16 ∧ (toyFinal .iso10126).draws = 12 := by
  decide

/-- V132, V133. -/
theorem test_final_illegal :
    (∃ t, exec .finalPkcs7 State.reset = .next t ∧ statusWord t = 0x00000009#32 ∧ t.errcmd = 0x00000204#32) ∧
    (∃ t, exec .finalPkcs7 (session .xts) = .next t ∧ statusWord t = 0x00100069#32) :=
  ⟨⟨_, rfl, by decide⟩, ⟨_, rfl, by decide⟩⟩

theorem test_flushi : exec .flushi { State.reset with ibuf := [1, 2], obuf := [3] } =
    .next { State.reset with obuf := [3] } := rfl

theorem test_flusho : exec .flusho { State.reset with ibuf := [1, 2], obuf := [3] } =
    .next { State.reset with ibuf := [1, 2] } := rfl

/-- V127c. -/
theorem test_clrerr : exec .clrerr { session .cbc with err := some .directionConflict, errcmd := 2 } =
    .next (session .cbc) := rfl

/-- V119. -/
theorem test_reset : exec .reset { session .cbc with iv := stdIv, gfn := 5, xtsMax := 0x20, ivLen := 16 } =
    .next State.reset := rfl

/-- V40, V42. -/
theorem test_gfmul :
    gf2pow128mul 0x0123456789ABCDEFFEDCBA9876543210#128 0x00112233445566778899AABBCCDDEEFF#128 =
      0x78718A5A6FDD9DE6E04C89C3C0D7A948#128 ∧
    gf2pow128mul (BitVec.allOnes 128) (BitVec.allOnes 128) = 0x5555555555555555555555555555402F#128 := by decide

/-- V55, V57. -/
theorem test_gfpow2 :
    (∃ t, exec .gfpow2 { State.reset with gfn := 1000 } = .next t ∧
      t.gfr = 0xF78F5B00000000000000000100000079#128) ∧
    (∃ t, exec .gfpow2 { State.reset with gfn := 0xFFFFFFFF } = .next t ∧
      t.gfr = 0x3C16854CAEE9D80C10BBBD7C034A8295#128) := ⟨⟨_, rfl, by decide⟩, ⟨_, rfl, by decide⟩⟩

/-- V49. -/
theorem test_gfdbl : ∃ t, exec .gfdbl { State.reset with gfa := 0x80000000000000000000000000000001#128 } =
    .next t ∧ t.gfr = 0x85#128 := ⟨_, rfl, by decide⟩

/-- V50, with the upper half of GFA set: it is ignored, and that of GFR becomes 0. -/
theorem test_gfdbl64 :
    ∃ t, exec .gfdbl64 { State.reset with gfa := 0xFFFFFFFFFFFFFFFFFFFFFFFFFFFFFFFF#128, gfr := stdIv } =
      .next t ∧ t.gfr = 0xFFFFFFFFFFFFFFE5#128 := ⟨_, rfl, by decide⟩

/-! ### The host port -/

/-- V110, V111. -/
theorem test_cap :
    capWord Ports.reference = 0x10109090#32 ∧
    capWord { Ports.reference with bs1 := 8, keyLen1 := 8, keyOk2 := false, keyLen2 := 24 } = 0x18081088#32 := by
  decide

/-- V114, V115. -/
theorem test_register_writes :
    (∃ t, step { State.reset with host := [.write 0x2C 0xFFFFFFFF#32] } = .next t ∧
      paramWord t = 0x00011F1F#32) ∧
    (∃ t, step { State.reset with iv := 0xf0e0d0c0000000000000000000000000#128,
                                  host := [.write 0x4C 0x30201000#32] } = .next t ∧
      t.iv = 0xf0e0d0c0000000000000000030201000#128) := ⟨⟨_, rfl, by decide⟩, ⟨_, rfl, by decide⟩⟩

/-- V100 to V104. -/
theorem test_unpad :
    unpad .pkcs7 [1, 2, 3, 4, 4, 4, 4, 4] = some [1, 2, 3, 4] ∧ unpad .pkcs7 [1, 2, 3, 4, 4, 4, 3, 4] = none ∧
    unpad .pkcs7 [] = none ∧ unpad .pkcs7 [1] = some [] ∧
    unpad .ansiX923 [0xaa, 0xbb, 0, 0, 3] = some [0xaa, 0xbb] ∧ unpad .ansiX923 [0xaa, 0xbb, 0, 1, 3] = none ∧
    unpad .iso10126 [0xaa, 0xbb, 0xcc, 0xdd, 3] = some [0xaa, 0xbb] ∧ unpad .iso10126 [0xaa, 5] = none ∧
    unpad .bitPadding [0xaa, 0x80, 0, 0] = some [0xaa] ∧ unpad .bitPadding [0xaa, 0, 0] = some [0xaa] ∧
    unpad .zerosPadding [0xaa, 0, 0, 0] = some [0xaa] := by decide

/-! ### Cases that meet the hypotheses of the statements -/

/-- A reset state with one access waiting. -/
def waiting (e : HostEvent) : State := { State.reset with host := [e] }

theorem test_witness_DecodeOfEncodeIsTheCommand :
    wellFormed 16 (.initCfb 16) = true ∧ wellFormed 1 (.initCfb 0) = true ∧ wellFormed 16 .gfdbl64 = true := by
  decide

theorem test_witness_EncodeOfDecodeIsTheWord : decode 16 0x00100301#32 = .command (.initCfb 16) := by decide

/-- Each kind of reserved word, at the ends of the ranges. -/
theorem test_witness_IllegalWordsAreTheReservedOnes :
    ReservedOpcode 0x09#32 ∧ ReservedOpcode 0x0F#32 ∧ ReservedOpcode 0x13#32 ∧ ReservedOpcode 0xFF#32 ∧
    ReservedWord 16 0x00000102#32 ∧ ReservedWord 16 0x80000004#32 ∧ ReservedField 16 0x00000001#32 ∧
    ReservedField 16 0x00000801#32 ∧ ReservedField 16 0x00000F01#32 ∧ ReservedField 16 0x00010201#32 ∧
    ReservedField 16 0x00110301#32 ∧ ReservedField 16 0x00000504#32 ∧ ReservedField 16 0x00000704#32 ∧
    ¬ ReservedField 16 0x00100301#32 ∧ ¬ ReservedField 16 0x00000701#32 ∧ ¬ ReservedField 16 0x00000404#32 := by
  and_intros <;> simp [ReservedOpcode, ReservedWord, ReservedField, zeroBits]

theorem test_witness_StepRunsTheDecodedCommand :
    (let s := waiting (.write 0x08 0x02#32)
     s.host = [.write 0x08 0x02#32] ∧ (s.err = none ∨ (0x02#32 : Word) = 0x07#32 ∨ (0x02#32 : Word) = 0x08#32) ∧
       decode s.ports.bs1 0x02#32 = .command .enc) ∧
    (let s := { waiting (.write 0x08 0x07#32) with err := some .illegalCommand }
     s.host = [.write 0x08 0x07#32] ∧ s.err ≠ none ∧ decode s.ports.bs1 0x07#32 = .command .clrerr) ∧
    (let s := { waiting (.write 0x08 0x08#32) with err := some .illegalCommand }
     s.host = [.write 0x08 0x08#32] ∧ s.err ≠ none ∧ decode s.ports.bs1 0x08#32 = .command .reset) := by decide

theorem test_witness_ReservedWordRaisesIllegalCommand :
    (waiting (.write 0x08 0x13#32)).err = none ∧ ReservedWord 16 0x13#32 :=
  ⟨rfl, .inl (.inr (by decide))⟩

/-- V127b for the first part; the lowest and the highest offset, and DIN with room, for the others. -/
theorem test_witness_LatchedErrorBlocksCommandsOnly :
    (let s := { waiting (.write 0x08 0x107#32) with err := some .directionConflict }
     s.err ≠ none ∧ (0x107#32 : Word) ≠ 0x07#32 ∧ (0x107#32 : Word) ≠ 0x08#32) ∧
    (∀ off ∈ [0x00, 0x20, 0xFC], off % 4 = 0 ∧ off < 0x100 ∧ off ≠ 0x08 ∧
      State.reset.ibuf.length < State.reset.ports.ibufCap) ∧
    (∀ off ∈ [0x00, 0x24, 0xFC], off % 4 = 0 ∧ off < 0x100 ∧ off ≠ 0x0C ∧ off ≠ 0x10) := by decide

theorem test_witness_EveryAcceptedAccessCompletes :
    Accepted (.read 0x00) ∧ Accepted (.read 0xFC) ∧ Accepted (.write 0x08 2) ∧ Accepted (.write 0xFC 1) ∧
      Accepted .resetInput := by
  unfold Accepted
  decide

theorem test_witness_OtherAccessesStop :
    (waiting (.otherWidth false 8 0x24)).host = [.otherWidth false 8 0x24] ∧ 0x22 % 4 ≠ 0 ∧ 0x101 % 4 ≠ 0 ∧
      0x100 % 4 = 0 ∧ 0x100 ≤ 0x100 ∧ State.reset.host = [] := ⟨rfl, by decide⟩

/-- ENC with no session, and a push into a full queue. -/
theorem test_witness_ErrorsArePrecise :
    (∃ t, step (waiting (.write 0x08 0x02#32)) = .next t ∧ t.err = some .illegalCommand) ∧
    (∃ t, step { waiting (.write 0x20 5) with
        ibuf := zeros 32, ports := { Ports.reference with ibufCap := 32 } } = .next t ∧
      t.err = some .bufferOverflow) := ⟨⟨_, rfl, by decide⟩, ⟨_, rfl, by decide⟩⟩

theorem test_witness_LatchedErrorStays :
    ∃ t u v, step { waiting (.write 0x08 0x00#32) with err := some .illegalCommand } = .next t ∧
      step { waiting (.write 0x08 0x07#32) with err := some .illegalCommand } = .next u ∧
      step { waiting .resetInput with err := some .illegalCommand } = .next v := ⟨_, _, _, rfl, rfl, rfl⟩

theorem test_witness_CommandsRaiseOnlyTheirErrors :
    ∃ t, exec .enc State.reset = .next t ∧ State.reset.err = none ∧ t.err = some .illegalCommand :=
  ⟨_, rfl, by decide⟩

theorem test_witness_DirectionChangesByRuleOnly :
    (∃ t, step { session .ecb with host := [.write 0x08 0x02#32] } = .next t ∧ t.dir = .encrypting) ∧
    (∃ t, step { session .ecb with host := [.write 0x08 0x03#32] } = .next t ∧ t.dir = .decrypting) ∧
    (∃ t, step { session .ecb with dir := .encrypting, host := [.write 0x08 0x101#32] } = .next t ∧
      t.dir = .unset) := ⟨⟨_, rfl, by decide⟩, ⟨_, rfl, by decide⟩, ⟨_, rfl, by decide⟩⟩

/-- A host write of each writable block register, INIT over T and the subkeys, and GFMUL. -/
theorem test_witness_BlockRegistersHaveTheirWritersOnly :
    (∃ t, step (waiting (.write 0x40 1)) = .next t ∧ t.iv ≠ 0) ∧
    (∃ t, step (waiting (.write 0x5C 1)) = .next t ∧ t.ctr ≠ 0) ∧
    (∃ t, step (waiting (.write 0x60 1)) = .next t ∧ t.tweak ≠ 0) ∧
    (∃ t, step (waiting (.write 0x80 1)) = .next t ∧ t.gfa ≠ 0) ∧
    (∃ t, step (waiting (.write 0x90 1)) = .next t ∧ t.gfb ≠ 0) ∧
    (∃ t, step { waiting (.write 0x08 0x10#32) with gfa := 1, gfb := 1 } = .next t ∧ t.gfr ≠ 0) ∧
    (∃ t, step { waiting (.write 0x08 0x101#32) with t := 1, subk1 := 1, subk2 := 1 } = .next t ∧
      t.t ≠ 1 ∧ t.subk1 ≠ 1 ∧ t.subk2 ≠ 1) ∧ ¬ Resets (waiting (.write 0x40 1)) := by
  refine ⟨⟨_, rfl, by decide⟩, ⟨_, rfl, by decide⟩, ⟨_, rfl, by decide⟩, ⟨_, rfl, by decide⟩,
    ⟨_, rfl, by decide⟩, ⟨_, rfl, by decide⟩, ⟨_, rfl, by decide⟩, ?_⟩
  unfold Resets Commands
  decide

theorem test_witness_HistoryOnlyGrows :
    ∃ t, step { session .ecb with ibuf := zeros 16, host := [.write 0x08 0x02#32] } = .next t ∧
      t.events = [.e1 (zeros 16)] := ⟨_, rfl, rfl⟩

/-- Room, and none: with and without an error latched. -/
theorem test_witness_DinPushAppendsOrDrops :
    (waiting (.write 0x20 0xFFFFFF42#32)).host = [.write 0x20 0xFFFFFF42#32] ∧
    State.reset.ibuf.length < State.reset.ports.ibufCap ∧
    (let s := { waiting (.write 0x20 1) with ibuf := zeros 32, ports := { Ports.reference with ibufCap := 32 } }
     ¬ s.ibuf.length < s.ports.ibufCap ∧ s.err = none) := by decide

theorem test_witness_DoutPopReturnsTheOldestByte :
    (waiting (.read 0x24)).host = [.read 0x24] ∧ (waiting (.read 0x24)).obuf = [] ∧
      { waiting (.read 0x24) with obuf := [1, 2] }.obuf ≠ [] := by decide

theorem test_witness_ReadsHaveNoSideEffect :
    ∀ off ∈ [0x00, 0x20, 0x28, 0xFC],
      (waiting (.read off)).host = [.read off] ∧ off % 4 = 0 ∧ off < 0x100 ∧ off ≠ 0x24 := by decide

/-- The first and the last word of the register space's first and last block register. -/
theorem test_witness_BlockRegisterWordsAreBigEndian :
    (waiting (.read 0x40)).host = [.read (offsetOf .iv + 4 * 0)] ∧
    (waiting (.read 0xCC)).host = [.read (offsetOf .subk2 + 4 * 3)] := by decide

/-- A read-only and a writable register, first and last word. -/
theorem test_witness_BlockRegisterWordWrite :
    (∀ k ∈ [0, 3], k < 4 ∧ (waiting (.write (0x70 + 4 * k) 7)).host = [.write (offsetOf .t + 4 * k) 7]) ∧
    (∀ k ∈ [0, 3], k < 4 ∧ (waiting (.write (0x90 + 4 * k) 7)).host = [.write (offsetOf .gfb + 4 * k) 7]) := by
  decide

/-- A legal CFB session in the middle of a segment, with an error latched. -/
def busySession : State :=
  { session .cfb with
    dir := .encrypting, cache := [], ks := zeros 10, fb := zeros 6, byteCount := 6, seg := 16,
    err := some .bufferOverflow, errcmd := 0xFFFFFFFF#32 }

theorem test_witness_StatusAndBufstatFields :
    busySession.Inv ∧ { busySession with host := [.read 0x0C] }.host = [.read 0x0C] ∧
      { busySession with host := [.read 0x14] }.host = [.read 0x14] :=
  ⟨by constructor <;> first | (unfold Ports.Legal; decide) | decide, rfl, rfl⟩

/-- R43, R45: each field at its bits. -/
theorem test_status_and_bufstat_of_a_busy_session :
    statusWord busySession = 0x1010013A#32 ∧ bufstatWord busySession = 0x06060A00#32 := by decide

/-- A value for each register, with the first and the last of the offsets that read 0. -/
theorem test_witness_ControlRegisterReads :
    (∀ off ∈ [0x00, 0x04, 0x10, 0x18, 0x1C, 0x28, 0x2C, 0x30, 0x08, 0x20, 0x34, 0x3C, 0xD0, 0xFC],
      (waiting (.read off)).host = [.read off]) ∧
    (0x10109090#32).toNat = Ports.reference.bs1 + 2 ^ 7 + 2 ^ 8 * Ports.reference.bs2 + 2 ^ 15 +
      2 ^ 16 * Ports.reference.keyLen1.toNat + 2 ^ 24 * Ports.reference.keyLen2.toNat ∧
    State.reset.ibuf.length < 2 ^ 32 ∧ (0#32).toNat = State.reset.ibuf.length ∧
    (0x00011F1F#32).toNat = (31#5).toNat + 2 ^ 8 * (31#5).toNat + 2 ^ 16 := by decide

theorem test_witness_ControlRegisterReads_legal_ports : Ports.reference.Legal := by
  unfold Ports.Legal
  decide

theorem test_witness_ControlRegisterWrites :
    ∀ off ∈ [0x28, 0x30, 0x2C, 0x00, 0x24, 0x3C, 0xD0, 0xFC],
      (waiting (.write off 5)).host = [.write off 5] ∧ off < 0x100 ∧ off % 4 = 0 := by decide

theorem test_witness_PlainWritesAreIdempotent :
    ∀ off ∈ [0x00, 0x04, 0x24, 0x40, 0xFC], off % 4 = 0 ∧ off < 0x100 ∧ off ≠ 0x08 ∧ off ≠ 0x20 := by decide

theorem test_witness_LoadedBlockReadsBack :
    BlockReg.iv.writable = true ∧ BlockReg.gfb.writable = true ∧ (zeros 16).length ≤ 16 ∧
      ([] : Bytes).length ≤ 16 := by decide

/-- Every mode has a legal state. -/
theorem test_session_is_legal (m : Mode) (h : m ≠ .none) : (session m).Inv := by
  constructor <;> cases m <;> first
    | exact absurd rfl h
    | (unfold Ports.Legal; decide)
    | decide

theorem test_reset_is_legal_without_session : State.reset.mode = .none ∧ State.reset.dir = .unset := by decide

/-- A legal state and a step from it: ENC over two blocks in ECB. -/
theorem test_witness_StepKeepsLegalStates :
    { session .ecb with ibuf := zeros 20, host := [.write 0x08 0x02#32] }.Inv ∧
      ∃ t, step { session .ecb with ibuf := zeros 20, host := [.write 0x08 0x02#32] } = .next t := by
  refine ⟨?_, _, rfl⟩
  constructor <;> first | (unfold Ports.Legal; decide) | decide

theorem test_witness_ResetClearsTheWholeUnit : (waiting .resetInput).host = [.resetInput] := rfl

/-- The checks of each INIT, all passed; the segment at both ends of its range. -/
theorem test_witness_InitStartsASession :
    State.reset.ports.keyOk1 = true ∧ 1 ≤ State.reset.ports.bs1 ∧
    { State.reset with ivLen := 16 }.ivLen.toNat = State.reset.ports.bs1 ∧
    (0#5).toNat ≤ State.reset.ports.bs1 ∧ (16#5).toNat ≤ State.reset.ports.bs1 ∧
    { State.reset with ctrSet := true }.ctrSet = true ∧ State.reset.ports.keyOk2 = true ∧
    State.reset.ports.keyLen1 = State.reset.ports.keyLen2 ∧ State.reset.ports.bs1 = 16 ∧
    State.reset.ports.bs2 = 16 := by decide

theorem test_witness_InitCmacDerivesTheSubkeys :
    State.reset.ports.keyOk1 = true ∧ State.reset.ports.bs1 = 16 ∧
    (let s := { State.reset with ports := { Ports.reference with bs1 := 8 } }
     s.ports.keyOk1 = true ∧ s.ports.bs1 = 8) := by decide

/-- A failing check of each kind, the checks before it passed. -/
theorem test_witness_InitReportsTheFirstFailedCheck :
    (∀ i ∈ [Instr.initEcb, .initCbc, .initCfb 16, .initOfb, .initCtr, .initXts, .initCmac],
      (initMode i).isSome ∧ wellFormed 16 i = true) ∧ State.reset.err = none ∧
    { Ports.reference with keyOk1 := false }.keyOk1 = false ∧
    { Ports.reference with keyOk2 := false }.keyOk1 = true ∧
    { Ports.reference with keyLen2 := 24 }.keyLen1 ≠ { Ports.reference with keyLen2 := 24 }.keyLen2 ∧
    { Ports.reference with bs2 := 8 }.bs2 ≠ 16 ∧ State.reset.ivLen = 0 ∧
    { State.reset with ivLen := 15 }.ivLen ≠ 0 ∧ { State.reset with ivLen := 15 }.ivLen.toNat ≠ 16 ∧
    State.reset.ctrSet = false ∧ { Ports.reference with bs1 := 12 }.bs1 ≠ 8 := by decide

/-- No input, and an input that makes a block with the bytes in CACHE. -/
theorem test_witness_EcbProcessesEachFullBlock :
    (let s := session .ecb
     Asked .encrypting ∧ s.mode = .ecb ∧ Unlocked .encrypting s ∧ Room (s.blockSize * blockCount s) s) ∧
    (let s := { session .ecb with cache := zeros 15, ibuf := [1], dir := .decrypting }
     Asked .decrypting ∧ s.mode = .ecb ∧ Unlocked .decrypting s ∧ Room (s.blockSize * blockCount s) s ∧
       blockCount s = 1) := by
  unfold Asked Unlocked Room
  decide

theorem test_witness_CbcChainsEachFullBlock :
    let s := { session .cbc with ibuf := zeros 33 }
    s.mode = .cbc ∧ s.blockSize ≤ 16 ∧ Room (s.blockSize * blockCount s) s ∧ Unlocked .encrypting s ∧
      Unlocked .decrypting s ∧ blockCount s = 2 := by
  unfold Unlocked Room
  decide

theorem test_witness_OfbXorsTheKeystream :
    let s := { session .ofb with ibuf := zeros 17 }
    Asked .encrypting ∧ s.mode = .ofb ∧ 1 ≤ s.blockSize ∧ s.blockSize ≤ 16 ∧ Unlocked .encrypting s ∧
      Room s.ibuf.length s := by
  unfold Asked Unlocked Room
  decide

theorem test_witness_CtrXorsTheEncryptedCounter :
    let s := { session .ctr with ibuf := zeros 17, ctr := BitVec.allOnes 128 }
    Asked .decrypting ∧ s.mode = .ctr ∧ 1 ≤ s.blockSize ∧ Unlocked .decrypting s ∧ Room s.ibuf.length s := by
  unfold Asked Unlocked Room
  decide

/-- In the middle of a segment up to its end, and a whole segment from its start. -/
theorem test_witness_CfbWithinOneSegment :
    (let s := { session .cfb with seg := 4, ks := zeros 2, fb := zeros 2, ibuf := zeros 2 }
     Asked .encrypting ∧ s.mode = .cfb ∧ Unlocked .encrypting s ∧ Room s.ibuf.length s ∧ s.ks ≠ [] ∧
       s.ibuf.length ≤ s.ks.length) ∧
    (let s := { session .cfb with ibuf := zeros 16 }
     Asked .encrypting ∧ s.mode = .cfb ∧ Unlocked .encrypting s ∧ Room s.ibuf.length s ∧ s.ks = [] ∧
       1 ≤ s.ibuf.length ∧ s.ibuf.length ≤ s.seg ∧ s.seg ≤ s.blockSize ∧ s.blockSize ≤ 16) := by
  unfold Asked Unlocked Room
  decide

/-- The shortest data unit, under the shortest maximum that admits it. -/
theorem test_witness_XtsMasksEachBlock :
    let s := { session .xts with ibuf := zeros 16, xtsMax := 17 }
    Asked .encrypting ∧ s.mode = .xts ∧ Unlocked .encrypting s ∧ 16 ≤ s.ibuf.length ∧
      s.ibuf.length < s.xtsMax.toNat ∧ s.ibuf.length % 16 = 0 ∧ Room s.ibuf.length s := by
  unfold Asked Unlocked Room
  decide

/-- The shortest and the longest tail. -/
theorem test_witness_XtsStealsCiphertext :
    ∀ n ∈ [17, 31], (let s := { session .xts with ibuf := zeros n, xtsMax := 32 }
      Asked .decrypting ∧ s.mode = .xts ∧ Unlocked .decrypting s ∧ 16 ≤ s.ibuf.length ∧
        s.ibuf.length < s.xtsMax.toNat ∧ s.ibuf.length % 16 ≠ 0 ∧ Room s.ibuf.length s) := by
  unfold Asked Unlocked Room
  decide

/-- A tweak of two bytes, and another register value that agrees on them. -/
theorem test_witness_TweakBytesBeyondLengthAreIgnored :
    let s := { session .xts with tweak := 0x1234ffff000000000000000000000000#128, tweakLen := 2, ibuf := zeros 16 }
    Asked .encrypting ∧ s.mode = .xts ∧
      blk 0x12340000000000000000000000000000#128 (min s.tweakLen.toNat 16) =
        blk s.tweak (min s.tweakLen.toNat 16) ∧ ∃ t, exec (cryptInstr .encrypting) s = .next t :=
  ⟨.inl rfl, rfl, by decide, _, rfl⟩

/-- The empty message, a full block and a partial second block. -/
theorem test_witness_CmacAppendsTheTag :
    ∀ n ∈ [0, 16, 17], (let s := { session .cmac with ibuf := zeros n }
      s.mode = .cmac ∧ Unlocked .encrypting s ∧ 1 ≤ s.blockSize ∧ Room s.blockSize s) := by
  unfold Unlocked Room
  decide

/-- A case for each check: no session, DEC in CMAC, the other direction, 15 bytes, XTSMAX bytes, and no room
in each kind of mode. -/
theorem test_witness_CryptReportsTheFirstFailedCheck :
    Asked .encrypting ∧ Asked .decrypting ∧ State.reset.err = none ∧ State.reset.mode = .none ∧
    (session .cmac).mode = .cmac ∧ ¬ Unlocked .encrypting { session .cbc with dir := .decrypting } ∧
    (let s := { session .xts with ibuf := zeros 15 }
     s.err = none ∧ Unlocked .encrypting s ∧ s.ibuf.length < 16) ∧
    (let s := { session .xts with ibuf := zeros 32, xtsMax := 32 }
     Unlocked .encrypting s ∧ 16 ≤ s.ibuf.length ∧ s.xtsMax.toNat ≤ s.ibuf.length) ∧
    (∀ m ∈ [Mode.xts, .cmac, .cfb, .ofb, .ctr, .ecb, .cbc],
      (let s := { session m with
          ibuf := zeros 48, obuf := zeros 31, ports := { Ports.reference with obufCap := 32 } }
       s.err = none ∧ Unlocked .encrypting s ∧ s.ibuf.length < s.xtsMax.toNat ∧ ¬ Room s.ibuf.length s ∧
         ¬ Room s.blockSize s ∧ ¬ Room (s.blockSize * blockCount s) s)) := by
  unfold Asked Unlocked Room
  decide

/-- One successful ENC in every mode. -/
theorem test_witness_OutputLengthByMode (m : Mode) (h : m ≠ .none) (hx : m ≠ .xts) :
    (session m).Inv ∧ (session m).err = none ∧ ∃ t, exec (cryptInstr .encrypting) (session m) = .next t ∧
      t.err = none := by
  refine ⟨test_session_is_legal m h, rfl, ?_⟩
  cases m <;> first
    | exact absurd rfl h
    | exact absurd rfl hx
    | exact ⟨_, rfl, rfl⟩

theorem test_witness_OutputLengthByMode_xts :
    { session .xts with ibuf := zeros 16 }.Inv ∧
      ∃ t, exec (cryptInstr .encrypting) { session .xts with ibuf := zeros 16 } = .next t ∧ t.err = none := by
  refine ⟨?_, _, rfl, rfl⟩
  constructor <;> first | (unfold Ports.Legal; decide) | decide

theorem test_witness_StreamCallsTheCodebookAsNeeded :
    ∀ m ∈ [Mode.cfb, .ofb, .ctr], m ≠ .none ∧ (session m).mode.streams = true ∧
      Unlocked .encrypting (session m) ∧ Room (session m).ibuf.length (session m) := by
  unfold Unlocked Room
  decide

theorem test_witness_EmptyInputOnlySetsTheDirection :
    ∀ m ∈ [Mode.ecb, .cbc, .cfb, .ofb, .ctr], m ≠ .none ∧ (m.caches = true ∨ m.streams = true) ∧
      Unlocked .decrypting (session m) ∧ (session m).ibuf = [] := by
  unfold Unlocked
  decide

/-- With both pieces empty and with two pieces that cut a block. -/
theorem test_witness_FragmentationDoesNotMatter :
    (∀ m ∈ [Mode.ecb, .cbc], m.caches = true ∧ Room ((session m).cache.length + 0 + 0) (session m) ∧
      Room ((session m).cache.length + (zeros 5).length + (zeros 27).length) (session m)) ∧
    (∀ m ∈ [Mode.cfb, .ofb, .ctr], m.streams = true ∧ Room (0 + 0) (session m) ∧
      Room ((zeros 5).length + (zeros 27).length) (session m)) ∧
    Asked .encrypting ∧ Unlocked .encrypting (session .ecb) := by
  unfold Room Asked Unlocked
  decide

/-- The session that INIT leaves serves as both sessions of the round trips. -/
theorem test_witness_BlockModesRoundTrip :
    ∀ m ∈ [Mode.ecb, .cbc], m ≠ .none ∧ m.caches = true ∧ (session m).dir = .unset ∧ (session m).cache = [] ∧
      (session m).ibuf.length % (session m).blockSize = 0 ∧ Room (session m).ibuf.length (session m) := by
  unfold Room
  decide

theorem test_witness_StreamModesRoundTrip :
    ∀ m ∈ [Mode.cfb, .ofb, .ctr], m ≠ .none ∧ m.streams = true ∧ (session m).dir = .unset ∧
      (session m).ks = [] ∧ Room (session m).ibuf.length (session m) := by
  unfold Room
  decide

theorem test_witness_XtsRoundTrip :
    let s := { session .xts with ibuf := zeros 16 }
    s.mode = .xts ∧ s.dir = .unset ∧ 16 ≤ s.ibuf.length ∧ s.ibuf.length < s.xtsMax.toNat ∧
      Room s.ibuf.length s := by
  unfold Room
  decide

/-- No session, a session that is not encrypting, and no room in a block and in a stream mode. -/
theorem test_witness_FinalChecksInOrder :
    State.reset.err = none ∧ State.reset.mode = .none ∧ (session .ecb).dir ≠ .encrypting ∧
    (∀ m ∈ [Mode.ecb, .ctr],
      (let s := { session m with
          dir := .encrypting, obuf := zeros 31, ports := { Ports.reference with obufCap := 32 } }
       s.err = none ∧ s.dir = .encrypting ∧ paddedFrom s < s.blockSize ∧
         padding .pkcs7 (paddedFrom s) s.blockSize s ≠ [] ∧ ¬ Room s.blockSize s ∧
         ¬ Room (padding .pkcs7 (paddedFrom s) s.blockSize s).length s)) := by
  unfold Room
  decide

/-- An empty cache and the fullest one; zerosPadding of an empty cache with OBUF full. -/
theorem test_witness_FinalPadsTheCachedBlock :
    (∀ n ∈ [0, 15], (let s := { session .cbc with dir := .encrypting, cache := zeros n }
      s.mode.caches = true ∧ s.dir = .encrypting ∧ s.cache.length < s.blockSize ∧ s.blockSize ≤ 16 ∧
        Room (finalLength .pkcs7 s) s)) ∧
    (let s := { session .ecb with
        dir := .encrypting, obuf := zeros 32, ports := { Ports.reference with obufCap := 32 } }
     s.mode.caches = true ∧ s.dir = .encrypting ∧ s.cache.length < s.blockSize ∧ s.blockSize ≤ 16 ∧
       Room (finalLength .zerosPadding s) s ∧ ¬ Room 1 s) := by
  unfold Room
  decide

theorem test_witness_FinalIsAnEncOfThePadding (m : Mode) (h : m = .ecb ∨ m = .cbc ∨ m = .cfb ∨ m = .ofb ∨ m = .ctr) :
    { session m with dir := .encrypting }.Inv ∧ (m.caches = true ∨ m.streams = true) ∧
      Room (finalLength .pkcs7 { session m with dir := .encrypting }) { session m with dir := .encrypting } := by
  unfold Room
  rcases h with rfl | rfl | rfl | rfl | rfl <;>
    exact ⟨by constructor <;> first | (unfold Ports.Legal; decide) | decide, by decide, by decide⟩

/-- A stream mode with room for the 6 padding bytes exactly, which is less than a block. -/
theorem test_witness_FinalIsAnEncOfThePadding_in_little_room :
    (let s := { session .ofb with
        dir := .encrypting, ks := zeros 6, byteCount := 10, obuf := zeros 26,
        ports := { Ports.reference with obufCap := 32 } }
     s.Inv ∧ Room (finalLength .pkcs7 s) s ∧ ¬ Room s.blockSize s) := by
  unfold Room
  exact ⟨by constructor <;> first | (unfold Ports.Legal; decide) | decide, by decide, by decide⟩

theorem test_witness_PaddingCompletesABlock : (1 : Nat) ≤ 1 := by decide

theorem test_witness_UnpadUndoesPad :
    (1 : Nat) ≤ 1 ∧ 255 ≤ 255 ∧ PadScheme.pkcs7 ≠ .zerosPadding := by decide

/-- The smallest modulus, and the largest power that is a plain shift. -/
theorem test_witness_polyred_and_powers : polyred 5 1 = 0 ∧ gf2pow128powof2 127 = 1#128 <<< 127 := by decide

end Sys2Proof.Tests
end

/-! Family 10_state.md: the reset values of R66. The views of the state that pack several fields into one word
(STATUS, BUFSTAT, PARAM) get one lemma each, over every state: the word is 0 when every field it shows has its
idle value. The reset state is one such state. -/

namespace Sys2Proof.Proofs

section
open Sys2Proof Sys2Proof.Machine Sys2Proof.Expected

/-! ### Packed words that show nothing (R43, R45, R47, R49) -/

theorem statusWord_eq_zero_of_idle {s : State} (hseg : s.seg = 0) (hsize : s.blockSize = 0) (hdir : s.dir = .unset)
    (hmode : s.mode = .none) (herr : s.err = none) : statusWord s = 0 := by
  unfold statusWord
  rw [hseg, hsize, hdir, hmode, herr]
  decide

theorem bufstatWord_eq_zero_of_empty {s : State} (hcount : s.byteCount = 0) (hfb : s.fb = []) (hks : s.ks = [])
    (hcache : s.cache = []) : bufstatWord s = 0 := by
  unfold bufstatWord
  rw [hcount, hfb, hks, hcache]
  decide

theorem paramWord_eq_zero_of_unset {s : State} (hctr : s.ctrSet = false) (htweak : s.tweakLen = 0)
    (hiv : s.ivLen = 0) : paramWord s = 0 := by
  unfold paramWord
  rw [hctr, htweak, hiv]
  decide

theorem ilevelWord_eq_zero_of_empty {s : State} (h : s.ibuf = []) : ilevelWord s = 0 := by
  simp [ilevelWord, h]

theorem olevelWord_eq_zero_of_empty {s : State} (h : s.obuf = []) : olevelWord s = 0 := by
  simp [olevelWord, h]

/-! ### The reset state (R66) -/

@[simp] theorem contents_reset (r : BlockReg) : contents r State.reset = 0 := by
  cases r <;> rfl

theorem reset_session_fields : State.reset.mode = .none ∧ State.reset.dir = .unset ∧ State.reset.blockSize = 0 ∧
    State.reset.seg = 0 ∧ State.reset.byteCount = 0 := ⟨rfl, rfl, rfl, rfl, rfl⟩

theorem reset_buffers_empty : State.reset.cache = [] ∧ State.reset.ks = [] ∧ State.reset.fb = [] ∧
    State.reset.ibuf = [] ∧ State.reset.obuf = [] := ⟨rfl, rfl, rfl, rfl, rfl⟩

theorem reset_no_error : State.reset.err = none ∧ State.reset.errcmd = 0 := ⟨rfl, rfl⟩

/-- Settles O26: the fields from the definition of the reset state, the packed words from the lemmas on idle
states. -/
theorem resetValues : Obligations.ResetValues := by
  obtain ⟨hmode, hdir, hsize, hseg, hcount⟩ := reset_session_fields
  obtain ⟨hcache, hks, hfb, hibuf, hobuf⟩ := reset_buffers_empty
  obtain ⟨herr, herrcmd⟩ := reset_no_error
  have hparam : paramWord State.reset = 0 := paramWord_eq_zero_of_unset rfl rfl rfl
  have hstatus : slotValue .status State.reset = 0 := statusWord_eq_zero_of_idle hseg hsize hdir hmode herr
  have hbufstat : slotValue .bufstat State.reset = 0 := bufstatWord_eq_zero_of_empty hcount hfb hks hcache
  have hilevel : slotValue .ilevel State.reset = 0 := ilevelWord_eq_zero_of_empty hibuf
  have holevel : slotValue .olevel State.reset = 0 := olevelWord_eq_zero_of_empty hobuf
  exact ⟨contents_reset, rfl, hparam, rfl, hmode, hdir, hsize, hseg, hcount, hcache, hks, hfb, hibuf, hobuf, herr,
    herrcmd, rfl, rfl, hstatus, herrcmd, hbufstat, hilevel, holevel⟩

end

end Sys2Proof.Proofs

/-! Family 20_memory.md: the queues and the words of the block registers, as the host reads and writes them
(R76, R86, R87). First the one step that serves an accepted access, then the queues in closed form, then the
substrings of a big-endian string. -/

namespace Sys2Proof.Proofs

section
open Sys2Proof Sys2Proof.Machine Sys2Proof.Expected

/-! ### The step that serves an accepted access (R83, R84) -/

theorem atOffset_of_accepted {off : Nat} (halign : off % 4 = 0) (hrange : off < 0x100)
    (act : Host.Outcome State Fault Refusal) : atOffset off act = act := by
  rcases atOffset_spec off act with ⟨hmis, -⟩ | ⟨-, hout, -⟩ | ⟨-, -, h⟩
  · exact absurd halign hmis
  · omega
  · exact h

theorem step_of_host_cons {s : State} {e : HostEvent} {rest : List HostEvent} (h : s.host = e :: rest) :
    step s = serve e { s with host := rest } := by
  rw [step, h]

theorem step_of_read {s : State} {off : Nat} {rest : List HostEvent} (h : s.host = .read off :: rest)
    (halign : off % 4 = 0) (hrange : off < 0x100) :
    step s = .next (readSlot (slotAt off) { s with host := rest }) := by
  rw [step_of_host_cons h, serve, atOffset_of_accepted halign hrange]

/-- Every accepted write but one of CMD is a plain write of its slot. -/
theorem step_of_plain_write {s : State} {off : Nat} {v : Word} {rest : List HostEvent}
    (h : s.host = .write off v :: rest) (halign : off % 4 = 0) (hrange : off < 0x100) (hcmd : off ≠ 0x08) :
    step s = .next (writeSlot (slotAt off) v { s with host := rest }) := by
  rw [step_of_host_cons h, serve, atOffset_of_accepted halign hrange]
  rcases writeAccess_spec off v { s with host := rest } with ⟨heq, -⟩ | ⟨-, hplain⟩
  · exact absurd heq hcmd
  · exact hplain

/-! ### The queues in closed form (R86, R87) -/

theorem latch_eq_ite (k : ErrorKind) (w : Word) (s : State) :
    latch k w s = if s.err = none then failed k w s else s := by
  rcases latch_spec k w s with ⟨herr, h⟩ | ⟨herr, h⟩
  · rw [h, if_pos herr, failed]
  · rw [h, if_neg herr]

theorem pushDin_eq_ite (v : Word) (s : State) :
    pushDin v s = if s.ibuf.length < s.ports.ibufCap then { s with ibuf := s.ibuf ++ [v.extractLsb' 0 8] }
      else if s.err = none then failed .bufferOverflow 0xFFFFFFFF#32 s else s := by
  rcases pushDin_spec v s with ⟨hroom, h⟩ | ⟨hfull, h⟩
  · rw [h, if_pos hroom, BitVec.setWidth_eq_extractLsb' (by decide)]
  · rw [h, if_neg (by omega), latch_eq_ite, pushErrorWord]

theorem popDout_eq_ite (s : State) :
    popDout s = if s.obuf = [] then (0x80000000#32, s)
      else (BitVec.ofNat 32 (s.obuf.headD 0).toNat, { s with obuf := s.obuf.tail }) := by
  rcases popDout_spec s with ⟨hempty, h⟩ | ⟨b, bytes, hcons, h⟩
  · rw [h, if_pos hempty, doutEmpty]
  · rw [h, hcons, if_neg (List.cons_ne_nil b bytes), List.headD_cons, List.tail_cons, BitVec.ofNat_toNat]

/-- Settles O16: DIN is a plain write, its slot the push, the push in closed form. -/
theorem dinPushAppendsOrDrops : Obligations.DinPushAppendsOrDrops := by
  intro s v rest h
  have hstep : step s = .next (pushDin v { s with host := rest }) :=
    step_of_plain_write h (by decide) (by decide) (by decide)
  rw [hstep, pushDin_eq_ite]

/-- Settles O17: a read of DOUT replies with what the pop returns, the pop in closed form. -/
theorem doutPopReturnsTheOldestByte : Obligations.DoutPopReturnsTheOldestByte := by
  intro s rest h
  have hstep : step s = .next ((popDout { s with host := rest }).2.reply (popDout { s with host := rest }).1) :=
    step_of_read h (by decide) (by decide)
  rw [hstep, popDout_eq_ite]
  by_cases hempty : s.obuf = []
  · rw [if_pos hempty, if_pos hempty, State.reply]
  · rw [if_neg hempty, if_neg hempty, State.reply]

/-! ### Substrings of a big-endian string (R10) -/

/-- Long division by 256^n: the last n bytes are those of the integer, the bytes before them its quotient's. -/
theorem int2be_add (v m n : Nat) : int2be v (m + n) = int2be (v / 256 ^ n) m ++ int2be v n := by
  induction n generalizing v with
  | zero => simp [int2be]
  | succ n ih =>
    rw [← Nat.add_assoc, int2be, ih, int2be, Nat.div_div_eq_div_mul, ← Nat.pow_succ', List.append_assoc]

theorem int2be_drop (v m n : Nat) : (int2be v (m + n)).drop m = int2be v n := by
  rw [int2be_add, List.drop_left' (int2be_length _ m)]

theorem int2be_take (v m n : Nat) : (int2be v (m + n)).take m = int2be (v / 256 ^ n) m := by
  rw [int2be_add, List.take_left' (int2be_length _ m)]

theorem blk_sixteen (x : Block) : blk x 16 = int2be x.toNat 16 :=
  List.take_of_length_le (int2be_length _ _).le

/-- The big-endian reading of the n bytes of a register that have i bytes before and j bytes after them. -/
theorem be2int_blk_drop_take (x : Block) {i n j : Nat} (h : i + (n + j) = 16) :
    be2int (((blk x 16).drop i).take n) = x.toNat / 256 ^ j % 256 ^ n := by
  rw [blk_sixteen, ← h, int2be_drop, int2be_take, be2int_int2be]

/-! ### Words of a block register (R11, R76) -/

theorem base_eq_offsetOf (r : BlockReg) : r.base = offsetOf r := by
  cases r <;> rfl

theorem readBlock_eq_contents (r : BlockReg) (s : State) : readBlock r s = contents r s := by
  cases r <;> rfl

theorem contents_with_host (r : BlockReg) (s : State) (l : List HostEvent) :
    contents r { s with host := l } = contents r s := by
  cases r <;> rfl

theorem wordOf_toNat (x : Block) (k : Nat) : (wordOf x k).toNat = x.toNat / 2 ^ (96 - 32 * k) % 2 ^ 32 := by
  rw [wordOf, BitVec.toNat_setWidth, BitVec.toNat_ushiftRight, Nat.shiftRight_eq_div_pow]

theorem getWord_eq_wordOf (x : Block) (k : Nat) : getWord x k = wordOf x k := by
  apply BitVec.eq_of_toNat_eq
  rw [wordOf_toNat, getWord, BitVec.extractLsb'_toNat, Nat.shiftRight_eq_div_pow]

/-- R76: word k is made of bytes 4k to 4k+3, a byte being 8 bits. -/
theorem wordOf_eq_be2int (x : Block) {k : Nat} (hk : k < 4) :
    wordOf x k = BitVec.ofNat 32 (be2int (((blk x 16).drop (4 * k)).take 4)) := by
  have hbits : 256 ^ (12 - 4 * k) = 2 ^ (96 - 32 * k) := by
    rw [show 256 = 2 ^ 8 by norm_num, ← Nat.pow_mul, show 8 * (12 - 4 * k) = 96 - 32 * k by omega]
  apply BitVec.eq_of_toNat_eq
  rw [wordOf_toNat, be2int_blk_drop_take x (j := 12 - 4 * k) (by omega), hbits, BitVec.toNat_ofNat,
    show 256 ^ 4 = 2 ^ 32 by norm_num, Nat.mod_mod]

/-- The offsets of the words are aligned and lie in the register space (R71, R72). -/
theorem offsetOf_word_accepted (r : BlockReg) {k : Nat} (hk : k < 4) :
    (offsetOf r + 4 * k) % 4 = 0 ∧ offsetOf r + 4 * k < 0x100 := by
  have hbase : offsetOf r % 4 = 0 ∧ offsetOf r ≤ 0xC0 := by cases r <;> decide
  omega

theorem slotAt_offsetOf_word (r : BlockReg) {k : Nat} (hk : k < 4) :
    slotAt (offsetOf r + 4 * k) = .block r k := by
  rw [← base_eq_offsetOf, slotAt_block r k hk]

/-- Settles O19: the slot of the offset is word k of the register; the reading of its bytes is
`wordOf_eq_be2int`. -/
theorem blockRegisterWordsAreBigEndian : Obligations.BlockRegisterWordsAreBigEndian := by
  intro s r k rest hk h
  obtain ⟨halign, hrange⟩ := offsetOf_word_accepted r hk
  refine ⟨?_, wordOf_eq_be2int (contents r s) hk⟩
  rw [step_of_read h halign hrange, slotAt_offsetOf_word r hk, readSlot, slotValue, State.reply,
    getWord_eq_wordOf, readBlock_eq_contents, contents_with_host]

end

end Sys2Proof.Proofs

/-! Family 30_encoding.md: the words that are no command (R118, R119, R120). The statements read a command word
by masks and shifts, the decoder by bit fields: first the two readings are joined, then each format says what it
asks of a word that it accepts, and a reserved word is one that every format refuses. -/

namespace Sys2Proof.Proofs

section
open Sys2Proof Sys2Proof.Machine Sys2Proof.Expected

/-! ### Bit fields of a word, by masks and by extraction -/

/-- The mask of the `n` bits from bit `lo` on. -/
def fieldMask (lo n : Nat) : Word := BitVec.ofNat 32 ((2 ^ n - 1) * 2 ^ lo)

theorem fieldMask_getLsbD {lo n i : Nat} (hi : i < 32) :
    (fieldMask lo n).getLsbD i = decide (lo ≤ i ∧ i < lo + n) := by
  rw [fieldMask, BitVec.getLsbD_ofNat, Nat.testBit_mul_two_pow, Nat.testBit_two_pow_sub_one]
  by_cases hlo : lo ≤ i
  · simp only [hi, hlo, decide_true, Bool.true_and, true_and, decide_eq_decide]
    omega
  · simp [hlo]

/-- A field that is 0 leaves nothing under its mask. -/
theorem and_fieldMask_eq_zero {w : Word} {lo n : Nat} (h : w.extractLsb' lo n = 0) : w &&& fieldMask lo n = 0#32 := by
  apply BitVec.eq_of_getLsbD_eq
  intro i hi
  rw [BitVec.getLsbD_and, fieldMask_getLsbD hi, BitVec.getLsbD_zero]
  by_cases hin : lo ≤ i ∧ i < lo + n
  · have hbit : (w.extractLsb' lo n).getLsbD (i - lo) = false := by rw [h]; exact BitVec.getLsbD_zero
    rw [BitVec.getLsbD_extractLsb', Nat.add_sub_cancel' hin.1] at hbit
    have hclear : w.getLsbD i = false := by simpa [show i - lo < n by omega] using hbit
    rw [hclear, Bool.false_and]
  · rw [decide_eq_false hin, Bool.and_false]

/-- Shifting a field down and masking it reads its value. -/
theorem shift_and_mask_toNat (w : Word) (lo : Nat) {n : Nat} (hn : n ≤ 32) :
    ((w >>> lo) &&& fieldMask 0 n).toNat = (w.extractLsb' lo n).toNat := by
  have hpow : 2 ^ n ≤ 2 ^ 32 := Nat.pow_le_pow_right (by decide) hn
  have hmask : (fieldMask 0 n).toNat = 2 ^ n - 1 := by
    rw [fieldMask, BitVec.toNat_ofNat, Nat.pow_zero, Nat.mul_one, Nat.mod_eq_of_lt (by omega)]
  rw [BitVec.toNat_and, hmask, Nat.and_two_pow_sub_one_eq_mod, BitVec.toNat_ushiftRight, BitVec.extractLsb'_toNat]

/-- OPC, bits 7:0 (R111). -/
theorem opcode_toNat (w : Word) : (w &&& 0xFF#32).toNat = (w.extractLsb' 0 8).toNat := by
  have h := shift_and_mask_toNat w 0 (n := 8) (by decide)
  rw [BitVec.ushiftRight_zero] at h
  exact h

/-- MODE, bits 11:8 (R115). -/
theorem mode_toNat (w : Word) : ((w >>> 8) &&& 0xF#32).toNat = (w.extractLsb' 8 4).toNat :=
  shift_and_mask_toNat w 8 (n := 4) (by decide)

/-- SEG, bits 20:16 (R115). -/
theorem seg_toNat (w : Word) : ((w >>> 16) &&& 0x1F#32).toNat = (w.extractLsb' 16 5).toNat :=
  shift_and_mask_toNat w 16 (n := 5) (by decide)

/-- PAD, bits 10:8 (R116). -/
theorem pad_toNat (w : Word) : ((w >>> 8) &&& 7#32).toNat = (w.extractLsb' 8 3).toNat :=
  shift_and_mask_toNat w 8 (n := 3) (by decide)

/-! ### What each format asks of a word that it accepts (R118, R120) -/

theorem decodeN_eq_command {w : Word} {i j : Instr} (h : decodeN w i = .command j) : w &&& 0xFFFFFF00#32 = 0#32 := by
  unfold decodeN at h
  split at h
  case isTrue hzero => exact and_fieldMask_eq_zero hzero
  case isFalse => cases h

theorem decodeNoSeg_eq_command {seg : BitVec 5} {i j : Instr} (h : decodeNoSeg seg i = .command j) : seg = 0 := by
  unfold decodeNoSeg at h
  split at h
  case isTrue hzero => exact hzero
  case isFalse => cases h

/-- The operands of INIT, MODE and SEG, that are not reserved (R120). -/
def InitOperandsLegal (bs1 mode seg : Nat) : Prop :=
  1 ≤ mode ∧ mode ≤ 7 ∧ (mode ≠ 3 → seg = 0) ∧ (mode = 3 → seg ≤ bs1)

theorem initOperandsLegal_of_noSeg {bs1 mode : Nat} {seg : BitVec 5} {i j : Instr} (hlow : 1 ≤ mode)
    (hhigh : mode ≤ 7) (hcfb : mode ≠ 3) (h : decodeNoSeg seg i = .command j) : InitOperandsLegal bs1 mode seg.toNat :=
  ⟨hlow, hhigh, fun _ => by rw [decodeNoSeg_eq_command h]; rfl, fun h3 => absurd h3 hcfb⟩

theorem decodeM_eq_command {bs1 : Nat} {w : Word} {i : Instr} (h : decodeM bs1 w = .command i) :
    w &&& 0xFFE0F000#32 = 0#32 ∧ InitOperandsLegal bs1 (w.extractLsb' 8 4).toNat (w.extractLsb' 16 5).toNat := by
  unfold decodeM at h
  split at h
  case isTrue => cases h
  case isFalse hbits =>
    obtain ⟨hhigh, hlow⟩ : w.extractLsb' 21 11 = 0 ∧ w.extractLsb' 12 4 = 0 := by simpa using hbits
    have hmask : 0xFFE0F000#32 = fieldMask 21 11 ||| fieldMask 12 4 := by decide
    refine ⟨?_, ?_⟩
    · rw [hmask, BitVec.and_or_distrib_left, and_fieldMask_eq_zero hhigh, and_fieldMask_eq_zero hlow]
      rfl
    · dsimp only at h
      split at h
      case h_3 hmode =>
        split at h
        case isTrue => cases h
        case isFalse hseg =>
          rw [hmode]
          exact ⟨by decide, by decide, fun h3 => absurd rfl h3, fun _ => Nat.le_of_not_lt hseg⟩
      case h_8 => cases h
      all_goals
        rename_i hmode
        rw [hmode]
        exact initOperandsLegal_of_noSeg (by decide) (by decide) (by decide) h

theorem decodeP_eq_command {w : Word} {i : Instr} (h : decodeP w = .command i) :
    w &&& 0xFFFFF800#32 = 0#32 ∧ (w.extractLsb' 8 3).toNat ≤ 4 := by
  unfold decodeP at h
  split at h
  case isTrue => cases h
  case isFalse hbits =>
    refine ⟨and_fieldMask_eq_zero (lo := 11) (n := 21) (not_not.mp hbits), ?_⟩
    split at h
    case h_6 => cases h
    all_goals omega

theorem decodeG_eq_command {w : Word} {i : Instr} (h : decodeG w = .command i) : w &&& 0xFFFFFE00#32 = 0#32 := by
  unfold decodeG at h
  split at h
  case isTrue => cases h
  case isFalse hbits => exact and_fieldMask_eq_zero (lo := 9) (n := 23) (not_not.mp hbits)

/-! ### A reserved word is no command (R118, R119, R120) -/

theorem reservedOpcode_iff (w : Word) :
    ReservedOpcode w ↔ (9 ≤ (w.extractLsb' 0 8).toNat ∧ (w.extractLsb' 0 8).toNat ≤ 15) ∨
      19 ≤ (w.extractLsb' 0 8).toNat := by
  simp only [ReservedOpcode, BitVec.le_def, opcode_toNat, BitVec.toNat_ofNat, Nat.reduceMod, Nat.reducePow]

theorem opcode_eq_iff (w : Word) {n : Nat} (hn : n < 256) :
    w &&& 0xFF#32 = BitVec.ofNat 32 n ↔ (w.extractLsb' 0 8).toNat = n := by
  rw [← BitVec.toNat_inj, opcode_toNat, BitVec.toNat_ofNat, Nat.mod_eq_of_lt (by omega)]

/-- Everything that the decoder can accept: an INIT, a FINAL, a GFDBL, or a word of format N. -/
theorem decode_eq_command_cases {bs1 : Nat} {w : Word} {i : Instr} (h : decode bs1 w = .command i) :
    (w &&& 0xFF#32 = 0x01#32 ∧ decodeM bs1 w = .command i) ∨
      (w &&& 0xFF#32 = 0x04#32 ∧ decodeP w = .command i) ∨
      (w &&& 0xFF#32 = 0x12#32 ∧ decodeG w = .command i) ∨
      (¬ ReservedOpcode w ∧ w &&& 0xFF#32 ≠ 0x01#32 ∧ w &&& 0xFF#32 ≠ 0x04#32 ∧ w &&& 0xFF#32 ≠ 0x12#32 ∧
        ∃ j, decodeN w j = .command i) := by
  simp only [reservedOpcode_iff, ne_eq, opcode_eq_iff w (show 0x01 < 256 by decide),
    opcode_eq_iff w (show 0x04 < 256 by decide), opcode_eq_iff w (show 0x12 < 256 by decide)]
  unfold decode at h
  split at h
  case h_2 hopc => exact .inl ⟨hopc, h⟩
  case h_5 hopc => exact .inr (.inl ⟨hopc, h⟩)
  case h_12 hopc => exact .inr (.inr (.inl ⟨hopc, h⟩))
  case h_13 => cases h
  all_goals exact .inr (.inr (.inr ⟨by omega, by omega, by omega, by omega, _, h⟩))

theorem not_reservedField_of_init {bs1 : Nat} {w : Word} (hopc : w &&& 0xFF#32 = 0x01#32)
    (h : InitOperandsLegal bs1 (w.extractLsb' 8 4).toNat (w.extractLsb' 16 5).toNat) : ¬ ReservedField bs1 w := by
  obtain ⟨hlow, hhigh, hother, hcfb⟩ := h
  rw [← mode_toNat] at hlow hhigh hother hcfb
  rw [← seg_toNat] at hother hcfb
  rintro (⟨-, hmode | hmode | ⟨hmode, hseg⟩ | ⟨hmode, hseg⟩⟩ | ⟨hfinal, -⟩)
  · rw [hmode] at hlow
    exact absurd hlow (by decide)
  · exact absurd (Nat.le_trans hmode hhigh) (by decide)
  · exact hseg (BitVec.eq_of_toNat_eq (hother fun h3 => hmode (BitVec.eq_of_toNat_eq h3)))
  · exact absurd (hcfb (by rw [hmode]; rfl)) (Nat.not_le_of_lt hseg)
  · rw [hopc] at hfinal
    exact absurd hfinal (by decide)

theorem not_reservedField_of_final {bs1 : Nat} {w : Word} (hopc : w &&& 0xFF#32 = 0x04#32)
    (h : (w.extractLsb' 8 3).toNat ≤ 4) : ¬ ReservedField bs1 w := by
  rw [← pad_toNat] at h
  rintro (⟨hinit, -⟩ | ⟨-, hpad⟩)
  · rw [hopc] at hinit
    exact absurd hinit (by decide)
  · exact absurd (Nat.le_trans hpad h) (by decide)

theorem not_reservedField_of_opcode {bs1 : Nat} {w : Word} (hinit : w &&& 0xFF#32 ≠ 0x01#32)
    (hfinal : w &&& 0xFF#32 ≠ 0x04#32) : ¬ ReservedField bs1 w := by
  rintro (⟨h, -⟩ | ⟨h, -⟩)
  · exact hinit h
  · exact hfinal h

theorem not_reservedWord_of_decode_eq_command {bs1 : Nat} {w : Word} {i : Instr} (h : decode bs1 w = .command i) :
    ¬ ReservedWord bs1 w := by
  suffices hlegal : ¬ ReservedOpcode w ∧ w &&& zeroBits w = 0#32 ∧ ¬ ReservedField bs1 w by
    obtain ⟨hopcode, hbits, hfield⟩ := hlegal
    rintro (hres | hres | hres)
    · exact hopcode hres
    · exact hres hbits
    · exact hfield hres
  rcases decode_eq_command_cases h with ⟨hopc, hM⟩ | ⟨hopc, hP⟩ | ⟨hopc, hG⟩ |
      ⟨hopcode, hinit, hfinal, hdbl, j, hN⟩
  · obtain ⟨hbits, hoperands⟩ := decodeM_eq_command hM
    exact ⟨by rw [ReservedOpcode, hopc]; decide, by rw [zeroBits, if_pos hopc, hbits],
      not_reservedField_of_init hopc hoperands⟩
  · obtain ⟨hbits, hpad⟩ := decodeP_eq_command hP
    have hinit : w &&& 0xFF#32 ≠ 0x01#32 := by rw [hopc]; decide
    exact ⟨by rw [ReservedOpcode, hopc]; decide, by rw [zeroBits, if_neg hinit, if_pos hopc, hbits],
      not_reservedField_of_final hopc hpad⟩
  · have hinit : w &&& 0xFF#32 ≠ 0x01#32 := by rw [hopc]; decide
    have hfinal : w &&& 0xFF#32 ≠ 0x04#32 := by rw [hopc]; decide
    exact ⟨by rw [ReservedOpcode, hopc]; decide,
      by rw [zeroBits, if_neg hinit, if_neg hfinal, if_pos hopc, decodeG_eq_command hG],
      not_reservedField_of_opcode hinit hfinal⟩
  · exact ⟨hopcode, by rw [zeroBits, if_neg hinit, if_neg hfinal, if_neg hdbl, decodeN_eq_command hN],
      not_reservedField_of_opcode hinit hfinal⟩

/-! ### The step that serves a write of CMD (R110) -/

theorem step_of_cmd_write {s : State} {w : Word} {rest : List HostEvent} (h : s.host = .write 0x08 w :: rest) :
    step s = issue w { s with host := rest } := by
  rw [step_of_host_cons h, serve, atOffset_of_accepted (by decide) (by decide)]
  rfl

/-- With no error latched every word is decoded, and one that is no command is latched as IllegalCommand. -/
theorem issue_of_reservedWord {s : State} {w : Word} (herr : s.err = none) (hres : ReservedWord s.ports.bs1 w) :
    issue w s = .next (failed .illegalCommand w s) := by
  rcases issue_spec w s with ⟨hblocked, -⟩ | ⟨-, i, hcommand, -⟩ | ⟨-, -, hlatch⟩
  · obtain ⟨hlatched, -⟩ := (blocked_iff w s).mp hblocked
    exact absurd herr hlatched
  · exact absurd hres (not_reservedWord_of_decode_eq_command hcommand)
  · rw [hlatch, latch_eq_ite, if_pos herr]

/-- Settles O6: the write of CMD issues the word, and a reserved word is one that the decoder refuses. -/
theorem reservedWordRaisesIllegalCommand : Obligations.ReservedWordRaisesIllegalCommand := by
  intro s w rest h herr hres
  rw [step_of_cmd_write h]
  exact issue_of_reservedWord (s := { s with host := rest }) herr hres

end

end Sys2Proof.Proofs

/-! Family 42_block_modes.md: ENC and DEC in ECB and CBC (R210, R211, R214, R215). The loop over the blocks is
followed by naming the state before each round: `runList_eq_of_rounds` is the induction, made once, and each mode
supplies its single round. -/

namespace Sys2Proof.Proofs

section
open Sys2Proof Sys2Proof.Machine Sys2Proof.Expected

/-! ### The loop over the blocks (R210) -/

/-- When round i takes `σ i` to `σ (i + 1)` and produces `out i`, n rounds take `σ 0` to `σ n` and produce the
outputs in order. -/
theorem runList_eq_of_rounds {α : Type} {f : α → State → Bytes × State} {a : Nat → α} {out : Nat → Bytes}
    {σ : Nat → State} {n : Nat} (h : ∀ i < n, f (a i) (σ i) = (out i, σ (i + 1))) :
    runList f ((List.range n).map a) (σ 0) = ((List.range n).flatMap out, σ n) := by
  induction n with
  | zero => rfl
  | succ n ih =>
    have hfirst := ih fun i hi => h i (Nat.lt_succ_of_lt hi)
    have hlast := h n (Nat.lt_succ_self n)
    simp [List.range_succ, runList_append, hfirst, hlast]

theorem chunks_eq_map_blockAt (bs n : Nat) (buf : Bytes) :
    chunks bs n buf = (List.range n).map (blockAt bs buf) :=
  chunks_eq_map bs n buf

theorem blockAt_length {bs : Nat} {buf : Bytes} {i : Nat} (h : i < buf.length / bs) :
    (blockAt bs buf i).length = bs := by
  have hfits : bs * (i + 1) ≤ buf.length :=
    Nat.le_trans (Nat.mul_le_mul_left bs h) (Nat.mul_div_le buf.length bs)
  rw [Nat.mul_succ] at hfits
  rw [blockAt, List.length_take, List.length_drop]
  omega

/-! ### The checks and the input of ENC and DEC (R200 to R204) -/

theorem exec_cryptInstr {d : Direction} (hd : Asked d) (s : State) :
    exec (cryptInstr d) s = .next (crypt Config.env d (encode (cryptInstr d)) s) := by
  rcases hd with rfl | rfl <;> rfl

theorem caches_iff (m : Mode) : m.caches = true ↔ m = .ecb ∨ m = .cbc := by
  cases m <;> decide

theorem outlen_eq_of_caches {s : State} (hmode : s.mode.caches = true) :
    outlen s.ibuf.length s = s.blockSize * blockCount s := by
  rw [blockCount, cached, List.length_append, outlen]
  rcases (caches_iff s.mode).mp hmode with h | h <;> rw [h]

theorem cryptCheck_eq_none_of_caches {d : Direction} {s : State} (hmode : s.mode.caches = true) (hlock : Unlocked d s)
    (hroom : Room (s.blockSize * blockCount s) s) : cryptCheck d s = none := by
  obtain ⟨hnone, hcmac, hxts⟩ : s.mode ≠ .none ∧ s.mode ≠ .cmac ∧ s.mode ≠ .xts := by
    rcases (caches_iff s.mode).mp hmode with h | h <;> rw [h] <;> decide
  have hdir : ¬ (s.dir ≠ .unset ∧ s.dir ≠ d) := by
    rintro ⟨hunset, hother⟩
    exact hlock.elim hunset hother
  rw [Room, ← outlen_eq_of_caches hmode] at hroom
  rw [cryptCheck, if_neg hnone, if_neg (fun h => hcmac h.1), if_neg hdir, if_neg (fun h => hxts h.1),
    if_neg (fun h => hxts h.1), if_neg (Nat.not_lt_of_le hroom)]

/-- The session of an ENC or DEC before block i: the direction set, IBUF taken, CACHE already cut to the remainder;
the blocks before i have made their calls and brought IV to `iv i`. -/
def beforeBlock (d : Direction) (iv : Nat → Block) (call : Nat → Event) (s : State) (i : Nat) : State :=
  { s with
    dir := d
    ibuf := []
    cache := cacheRest s
    iv := iv i
    events := s.events ++ (List.range i).map call }

/-- ENC and DEC of a mode that caches, from the round of one block: R202 and R210 for every such mode. -/
theorem exec_cryptInstr_of_rounds {d : Direction} {s : State} {f : Bytes → State → Bytes × State}
    {out : Nat → Bytes} {iv : Nat → Block} {call : Nat → Event} (hd : Asked d) (hmode : s.mode.caches = true)
    (hlock : Unlocked d s) (hroom : Room (s.blockSize * blockCount s) s)
    (hupdate : ∀ u, u.mode = s.mode → update Config.env d s.ibuf u = cacheUpdate f s.ibuf u) (hiv : iv 0 = s.iv)
    (hround : ∀ i < blockCount s, f (blockAt s.blockSize (cached s) i) (beforeBlock d iv call s i) =
      (out i, beforeBlock d iv call s (i + 1))) :
    exec (cryptInstr d) s = .next { beforeBlock d iv call s (blockCount s) with
      obuf := s.obuf ++ (List.range (blockCount s)).flatMap out } := by
  have hstart : { s with dir := d, ibuf := [], cache := cacheRest s } = beforeBlock d iv call s 0 := by
    simp [beforeBlock, hiv]
  have hblocks : cacheUpdate f s.ibuf { s with dir := d, ibuf := [] } =
      runList f ((List.range (blockCount s)).map (blockAt s.blockSize (cached s)))
        { s with dir := d, ibuf := [], cache := cacheRest s } := by
    rw [← chunks_eq_map_blockAt, cacheRest, Nat.mul_comm]
    rfl
  rcases crypt_spec Config.env d (encode (cryptInstr d)) s with ⟨k, hk, -⟩ | ⟨-, hfeed⟩
  · rw [cryptCheck_eq_none_of_caches hmode hlock hroom] at hk
    cases hk
  · rw [exec_cryptInstr hd, hfeed, feed, hupdate { s with dir := d, ibuf := [] } rfl, hblocks, hstart,
      runList_eq_of_rounds hround]
    rfl

theorem log_beforeBlock (d : Direction) (iv : Nat → Block) (call : Nat → Event) (s : State) (i : Nat) :
    { (beforeBlock d iv call s i).log (call i) with iv := iv (i + 1) } = beforeBlock d iv call s (i + 1) := by
  simp [beforeBlock, State.log, List.range_succ]

/-! ### ECB (R211) -/

theorem update_of_ecb {s : State} (hmode : s.mode = .ecb) (d : Direction) (data : Bytes) :
    update Config.env d data s = cacheUpdate (callCb1 Config.env d) data s := by
  rw [update, hmode]
  rfl

theorem callCb1_eq_codebook {d : Direction} (hd : Asked d) (x : Bytes) (s : State) :
    callCb1 Config.env d x s = (codebook d x, s.log (codebookCall d x)) := by
  rcases hd with rfl | rfl <;> rfl

/-- Settles O34: a round of ECB is one call on the block, and IV is the same before every block. -/
theorem ecbProcessesEachFullBlock : Obligations.EcbProcessesEachFullBlock := by
  intro d s hd hmode hlock hroom
  refine exec_cryptInstr_of_rounds (out := fun i => codebook d (blockAt s.blockSize (cached s) i))
    (iv := fun _ => s.iv) (call := fun i => codebookCall d (blockAt s.blockSize (cached s) i)) hd
    ((caches_iff _).mpr (.inl hmode)) hlock hroom (fun _ hu => update_of_ecb (hu.trans hmode) d s.ibuf) rfl ?_
  intro i _
  rw [callCb1_eq_codebook hd, ← log_beforeBlock]
  rfl

/-! ### CBC (R214, R215) -/

theorem update_of_cbc_encrypting {s : State} (hmode : s.mode = .cbc) (data : Bytes) :
    update Config.env .encrypting data s = cacheUpdate (cbcEncryptBlock Config.env) data s := by
  rw [update, hmode]
  rfl

theorem update_of_cbc_decrypting {s : State} (hmode : s.mode = .cbc) (data : Bytes) :
    update Config.env .decrypting data s = cacheUpdate (cbcDecryptBlock Config.env) data s := by
  rw [update, hmode]
  rfl

theorem blk_length_of_le (r : Block) {n : Nat} (h : n ≤ 16) : (blk r n).length = n := by
  rw [blk_length, Nat.min_eq_left h]

theorem cbcChain_length {bs : Nat} {iv buf : Bytes} (hiv : iv.length = bs) {i : Nat} (hi : i ≤ buf.length / bs) :
    (cbcChain bs iv buf i).length = bs := by
  induction i with
  | zero => exact hiv
  | succ i ih =>
    rw [cbcChain, Config.env.e1_length, xorBytes_length, blockAt_length hi, ih (Nat.le_of_succ_le hi), Nat.min_self]

theorem cbcPrevious_length {bs : Nat} {iv buf : Bytes} (hiv : iv.length = bs) {i : Nat} (hi : i ≤ buf.length / bs) :
    (cbcPrevious bs iv buf i).length = bs := by
  cases i with
  | zero => exact hiv
  | succ i => exact blockAt_length hi

section
variable {s : State} {x b : Bytes} {r : Block}

/-- One block of R214: IV is `r` with the running value `x` written over its first bytes, and ends as `r` with the
ciphertext block there. -/
theorem cbcEncryptBlock_of_running (hsize : s.blockSize ≤ 16) (hx : x.length = s.blockSize)
    (hb : b.length = s.blockSize) (hiv : s.iv = setblk r x) :
    cbcEncryptBlock Config.env b s = (Config.env.e1 (xorBytes b x),
      { s.log (.e1 (xorBytes b x)) with iv := setblk r (Config.env.e1 (xorBytes b x)) }) := by
  have hrun : blk s.iv s.blockSize = x := by rw [hiv, ← hx, blk_setblk_self r x (by omega)]
  have hnext : setblk s.iv (Config.env.e1 (xorBytes b x)) = setblk r (Config.env.e1 (xorBytes b x)) := by
    rw [hiv, setblk_setblk r _ x (by rw [Config.env.e1_length, xorBytes_length]; omega) (by omega)]
  rw [cbcEncryptBlock, hrun, callE1, hnext]

/-- One block of R215: IV is `r` with the running value `x` written over its first bytes, and ends as `r` with the
input block there. -/
theorem cbcDecryptBlock_of_running (hsize : s.blockSize ≤ 16) (hx : x.length = s.blockSize)
    (hb : b.length = s.blockSize) (hiv : s.iv = setblk r x) :
    cbcDecryptBlock Config.env b s =
      (xorBytes (Config.env.d1 b) x, { s.log (.d1 b) with iv := setblk r b }) := by
  have hrun : blk s.iv s.blockSize = x := by rw [hiv, ← hx, blk_setblk_self r x (by omega)]
  have hnext : setblk s.iv b = setblk r b := by rw [hiv, setblk_setblk r b x (by omega) (by omega)]
  rw [cbcDecryptBlock, hrun, callD1, hnext]

end

/-- R214 for a whole ENC: IV holds the chaining value before each block. -/
theorem exec_enc_of_cbc {s : State} (hmode : s.mode = .cbc) (hsize : s.blockSize ≤ 16)
    (hroom : Room (s.blockSize * blockCount s) s) (hlock : Unlocked .encrypting s) :
    exec .enc s = .next (afterCbcEncrypt s) := by
  let chain := cbcChain s.blockSize (blk s.iv s.blockSize) (cached s)
  refine exec_cryptInstr_of_rounds (out := fun i => chain (i + 1)) (iv := fun i => setblk s.iv (chain i))
    (call := fun i => .e1 (xorBytes (blockAt s.blockSize (cached s) i) (chain i))) (.inl rfl)
    ((caches_iff _).mpr (.inr hmode)) hlock hroom (fun _ hu => update_of_cbc_encrypting (hu.trans hmode) s.ibuf)
    (setblk_blk s.iv _ hsize) ?_
  intro i hi
  rw [← log_beforeBlock]
  exact cbcEncryptBlock_of_running hsize (cbcChain_length (blk_length_of_le s.iv hsize) hi.le) (blockAt_length hi) rfl

/-- R215 for a whole DEC: IV holds the input block before each block. -/
theorem exec_dec_of_cbc {s : State} (hmode : s.mode = .cbc) (hsize : s.blockSize ≤ 16)
    (hroom : Room (s.blockSize * blockCount s) s) (hlock : Unlocked .decrypting s) :
    exec .dec s = .next (afterCbcDecrypt s) := by
  let block := blockAt s.blockSize (cached s)
  let previous := cbcPrevious s.blockSize (blk s.iv s.blockSize) (cached s)
  refine exec_cryptInstr_of_rounds (out := fun i => xorBytes (Config.env.d1 (block i)) (previous i))
    (iv := fun i => setblk s.iv (previous i)) (call := fun i => .d1 (block i)) (.inr rfl)
    ((caches_iff _).mpr (.inr hmode)) hlock hroom (fun _ hu => update_of_cbc_decrypting (hu.trans hmode) s.ibuf)
    (setblk_blk s.iv _ hsize) ?_
  intro i hi
  rw [← log_beforeBlock]
  exact cbcDecryptBlock_of_running hsize (cbcPrevious_length (blk_length_of_le s.iv hsize) hi.le) (blockAt_length hi)
    rfl

/-- Settles O35: both directions, each from its round. -/
theorem cbcChainsEachFullBlock : Obligations.CbcChainsEachFullBlock := by
  intro s hmode hsize hroom
  exact ⟨exec_enc_of_cbc hmode hsize hroom, exec_dec_of_cbc hmode hsize hroom⟩

end

end Sys2Proof.Proofs

/-! Family 43_stream_modes.md: ENC and DEC in OFB and CTR (R230 to R232, R240, R243, R244). The byte loop is followed
once, for every mode whose refill is one codebook call: a `Refills` names what the refills of a session do, and
`runList_bufferedByte` is the induction over the input. Each mode supplies its single refill. -/

namespace Sys2Proof.Proofs

section
open Sys2Proof Sys2Proof.Machine Sys2Proof.Expected

/-! ### The number of refills (R231) -/

@[simp] theorem callCount_zero (k r : Nat) : callCount 0 k r = 0 := if_pos (Nat.zero_le k)

/-- A byte that the keystream at hand covers needs no call. -/
theorem callCount_succ_succ (n k r : Nat) : callCount (n + 1) (k + 1) r = callCount n k r := by
  simp [callCount]

/-- With no keystream at hand the next byte costs one call, which puts a full refill at hand. -/
theorem callCount_succ_zero (n : Nat) {r : Nat} (hr : 1 ≤ r) : callCount (n + 1) 0 r = callCount (n + 1) r r + 1 := by
  have hall : callCount (n + 1) 0 r = n / r + 1 := by
    rw [callCount, if_neg (by omega), show n + 1 - 0 + r - 1 = n + r by omega, Nat.add_div_right n hr]
  rw [hall, callCount]
  split
  · next hfits => rw [Nat.div_eq_of_lt hfits]
  · next hmore => rw [show n + 1 - r + r - 1 = n by omega]

/-! ### One byte from the keystream buffer (R230, R232) -/

/-- One byte of a mode that takes its keystream from the buffer and leaves the rest of the state to the refill. -/
def bufferedByte (refill : State → State) (x : Byte) (s : State) : Bytes × State :=
  ([(streamByte refill x s).1], (streamByte refill x s).2)

theorem ofbByte_eq_bufferedByte (K : Environment) : ofbByte K = bufferedByte (refillOfb K) := rfl

theorem ctrByte_eq_bufferedByte (K : Environment) : ctrByte K = bufferedByte (refillCtr K) := rfl

section
variable {refill : State → State} {s : State} {y : Byte} {k : Bytes}

theorem bufferedByte_of_ks_cons (h : s.ks = y :: k) (x : Byte) :
    bufferedByte refill x s = ([x ^^^ y], { s with ks := k }) := by
  simp [bufferedByte, streamByte, refillIfEmpty, h]

/-- R230: with the buffer empty, the byte is the first one after the refill. -/
theorem bufferedByte_of_ks_nil (h : s.ks = []) (hrefill : (refill s).ks = y :: k) (x : Byte) :
    bufferedByte refill x s = bufferedByte refill x (refill s) := by
  simp [bufferedByte, streamByte, refillIfEmpty, h, hrefill]

end

/-! ### The refills of a session -/

/-- What the refills of a session do, counted from 0. -/
structure Refills where
  /-- IV when j refills are done. -/
  iv : Nat → Block
  /-- CTR when j refills are done. -/
  ctr : Nat → Block
  /-- The codebook call of refill j. -/
  call : Nat → Event
  /-- The keystream that refill j yields. -/
  block : Nat → Bytes

/-- The keystream that n more bytes of input bring to hand, `k` being left and j refills done. -/
def Refills.stream (q : Refills) (r j n : Nat) (k : Bytes) : Bytes :=
  k ++ (List.range (callCount n k.length r)).flatMap fun i => q.block (j + i)

/-- The session of an ENC or DEC when j refills are done and `k` is left of the keystream: the direction set, IBUF
taken. -/
def afterRefills (d : Direction) (q : Refills) (s : State) (j : Nat) (k : Bytes) : State :=
  { s with
    dir := d
    ibuf := []
    iv := q.iv j
    ctr := q.ctr j
    ks := k
    events := s.events ++ (List.range j).map q.call }

theorem log_afterRefills (d : Direction) (q : Refills) (s : State) (j : Nat) (k : Bytes) :
    { (afterRefills d q s j []).log (q.call j) with iv := q.iv (j + 1), ctr := q.ctr (j + 1), ks := k } =
      afterRefills d q s (j + 1) k := by
  simp [afterRefills, State.log, List.range_succ]

@[simp] theorem Refills.stream_zero (q : Refills) (r j : Nat) (k : Bytes) : q.stream r j 0 k = k := by
  simp [Refills.stream]

theorem Refills.stream_cons (q : Refills) (r j n : Nat) (y : Byte) (k : Bytes) :
    q.stream r j (n + 1) (y :: k) = y :: q.stream r j n k := by
  simp [Refills.stream, callCount_succ_succ]

theorem Refills.stream_nil (q : Refills) {r j : Nat} (n : Nat) (hr : 1 ≤ r) (hblock : (q.block j).length = r) :
    q.stream r j (n + 1) [] = q.stream r (j + 1) (n + 1) (q.block j) := by
  simp [Refills.stream, hblock, callCount_succ_zero n hr, List.range_succ_eq_map, List.flatMap_map,
    Nat.add_assoc, Nat.add_comm 1]

section
variable {d : Direction} {q : Refills} {s : State} {refill : State → State} {r : Nat}

/-- The byte loop of R232: the input is XORed with the keystream, and what is not used of it is left. -/
theorem runList_bufferedByte (hr : 1 ≤ r) (hblock : ∀ j, (q.block j).length = r)
    (hrefill : ∀ j, refill (afterRefills d q s j []) = afterRefills d q s (j + 1) (q.block j))
    (data : Bytes) (j : Nat) (k : Bytes) :
    runList (bufferedByte refill) data (afterRefills d q s j k) =
      (xorBytes data (q.stream r j data.length k),
        afterRefills d q s (j + callCount data.length k.length r)
          ((q.stream r j data.length k).drop data.length)) := by
  induction data generalizing j k with
  | nil => simp
  | cons x xs ih =>
    have hcovered (j : Nat) (y : Byte) (k : Bytes) :
        runList (bufferedByte refill) (x :: xs) (afterRefills d q s j (y :: k)) =
          (xorBytes (x :: xs) (q.stream r j (xs.length + 1) (y :: k)),
            afterRefills d q s (j + callCount (xs.length + 1) (k.length + 1) r)
              ((q.stream r j (xs.length + 1) (y :: k)).drop (xs.length + 1))) := by
      have hbyte : bufferedByte refill x (afterRefills d q s j (y :: k)) = ([x ^^^ y], afterRefills d q s j k) :=
        bufferedByte_of_ks_cons rfl x
      rw [runList_cons, hbyte, ih, q.stream_cons, callCount_succ_succ]
      rfl
    cases k with
    | cons y k => exact hcovered j y k
    | nil =>
      obtain ⟨y, b, hb⟩ := List.exists_cons_of_length_pos (hr.trans_eq (hblock j).symm)
      have hrefilled : runList (bufferedByte refill) (x :: xs) (afterRefills d q s j []) =
          runList (bufferedByte refill) (x :: xs) (afterRefills d q s (j + 1) (q.block j)) := by
        rw [runList_cons, runList_cons, bufferedByte_of_ks_nil rfl (by rw [hrefill]; exact hb), hrefill]
      have hcalls : j + callCount (xs.length + 1) 0 r =
          j + 1 + callCount (xs.length + 1) (q.block j).length r := by
        rw [callCount_succ_zero _ hr, hblock]
        omega
      rw [hrefilled, List.length_cons, List.length_nil, q.stream_nil _ hr (hblock j), hcalls, hb]
      exact hcovered (j + 1) y b

end

/-! ### The checks of ENC and DEC, and the input (R202, R204) -/

theorem streams_iff (m : Mode) : m.streams = true ↔ m = .cfb ∨ m = .ofb ∨ m = .ctr := by
  cases m <;> decide

theorem outlen_eq_of_streams {s : State} (hmode : s.mode.streams = true) (n : Nat) : outlen n s = n := by
  rw [outlen]
  rcases (streams_iff s.mode).mp hmode with h | h | h <;> rw [h]

theorem cryptCheck_eq_none_of_streams {d : Direction} {s : State} (hmode : s.mode.streams = true)
    (hlock : Unlocked d s) (hroom : Room s.ibuf.length s) : cryptCheck d s = none := by
  obtain ⟨hnone, hcmac, hxts⟩ : s.mode ≠ .none ∧ s.mode ≠ .cmac ∧ s.mode ≠ .xts := by
    rcases (streams_iff s.mode).mp hmode with h | h | h <;> rw [h] <;> decide
  have hdir : ¬ (s.dir ≠ .unset ∧ s.dir ≠ d) := by
    rintro ⟨hunset, hother⟩
    exact hlock.elim hunset hother
  rw [Room, ← outlen_eq_of_streams hmode s.ibuf.length] at hroom
  rw [cryptCheck, if_neg hnone, if_neg (fun h => hcmac h.1), if_neg hdir, if_neg (fun h => hxts h.1),
    if_neg (fun h => hxts h.1), if_neg (Nat.not_lt_of_le hroom)]

/-- ENC and DEC of a stream mode, from its refill: R202 and R232 for every mode whose bytes come from the buffer. -/
theorem exec_cryptInstr_of_refills {d : Direction} {s : State} {refill : State → State} {q : Refills}
    (hd : Asked d) (hmode : s.mode.streams = true) (hlock : Unlocked d s) (hroom : Room s.ibuf.length s)
    (hsize : 1 ≤ s.blockSize)
    (hupdate : ∀ u, u.mode = s.mode → update Config.env d s.ibuf u = streamUpdate (bufferedByte refill) s.ibuf u)
    (hiv : q.iv 0 = s.iv) (hctr : q.ctr 0 = s.ctr) (hblock : ∀ j, (q.block j).length = s.blockSize)
    (hrefill : ∀ j, refill (afterRefills d q s j []) = afterRefills d q s (j + 1) (q.block j)) :
    let calls := callCount s.ibuf.length s.ks.length s.blockSize
    let stream := s.ks ++ (List.range calls).flatMap q.block
    exec (cryptInstr d) s = .next { afterRefills d q s calls (stream.drop s.ibuf.length) with
      byteCount := (s.byteCount + s.ibuf.length) % s.blockSize
      obuf := s.obuf ++ xorBytes s.ibuf stream } := by
  intro calls stream
  have hstart : { s with dir := d, ibuf := [] } = afterRefills d q s 0 s.ks := by
    simp [afterRefills, hiv, hctr]
  have hstream : q.stream s.blockSize 0 s.ibuf.length s.ks = stream := by
    simp [Refills.stream, stream, calls]
  have hloop : runList (bufferedByte refill) s.ibuf { s with dir := d, ibuf := [] } =
      (xorBytes s.ibuf stream, afterRefills d q s calls (stream.drop s.ibuf.length)) := by
    rw [hstart, runList_bufferedByte hsize hblock hrefill, hstream, Nat.zero_add]
  rcases crypt_spec Config.env d (encode (cryptInstr d)) s with ⟨k, hk, -⟩ | ⟨-, hfeed⟩
  · rw [cryptCheck_eq_none_of_streams hmode hlock hroom] at hk
    cases hk
  · rw [exec_cryptInstr hd, hfeed, feed, hupdate { s with dir := d, ibuf := [] } rfl, streamUpdate, hloop]
    rfl

/-! ### OFB (R240) -/

theorem update_of_ofb {s : State} (hmode : s.mode = .ofb) (d : Direction) (data : Bytes) :
    update Config.env d data s = streamUpdate (bufferedByte (refillOfb Config.env)) data s := by
  rw [update, hmode]
  rfl

theorem ofbValue_length (iv : Bytes) (j : Nat) : (ofbValue iv j).length = iv.length := by
  induction j with
  | zero => rfl
  | succ j ih => rw [ofbValue, Config.env.e1_length, ih]

/-- One refill of R240: IV is `r` with the running value `x` written over its first bytes, and ends as `r` with E1 of
`x` there, which is the keystream. -/
theorem refillOfb_of_running {s : State} {x : Bytes} {r : Block} (hsize : s.blockSize ≤ 16)
    (hx : x.length = s.blockSize) (hiv : s.iv = setblk r x) :
    refillOfb Config.env s =
      { s.log (.e1 x) with iv := setblk r (Config.env.e1 x), ks := Config.env.e1 x } := by
  have hlen : (Config.env.e1 x).length = s.blockSize := (Config.env.e1_length x).trans hx
  have hrun : blk s.iv s.blockSize = x := by rw [hiv, ← hx, blk_setblk_self r x (by omega)]
  have hnext : setblk s.iv (Config.env.e1 x) = setblk r (Config.env.e1 x) := by
    rw [hiv, setblk_setblk r _ x (by omega) (by omega)]
  have hks : blk (setblk r (Config.env.e1 x)) s.blockSize = Config.env.e1 x := by
    rw [← hlen, blk_setblk_self r _ (by omega)]
  rw [refillOfb, hrun, callE1, hnext, hks]

/-- The refills of OFB: IV, the call and the keystream are the successive running values (R240). -/
def ofbRefills (s : State) : Refills where
  iv j := setblk s.iv (ofbValue (blk s.iv s.blockSize) j)
  ctr _ := s.ctr
  call j := .e1 (ofbValue (blk s.iv s.blockSize) j)
  block j := ofbValue (blk s.iv s.blockSize) (j + 1)

/-- Settles O36: a refill of OFB takes the running value to the next. -/
theorem ofbXorsTheKeystream : Obligations.OfbXorsTheKeystream := by
  intro d s hd hmode hpos hsize hlock hroom
  have hlen (j : Nat) : (ofbValue (blk s.iv s.blockSize) j).length = s.blockSize :=
    (ofbValue_length _ j).trans (blk_length_of_le s.iv hsize)
  refine exec_cryptInstr_of_refills (q := ofbRefills s) hd (by rw [hmode]; rfl) hlock hroom hpos
    (fun _ hu => update_of_ofb (hu.trans hmode) d s.ibuf) (setblk_blk s.iv _ hsize) rfl (fun j => hlen (j + 1)) ?_
  intro j
  rw [← log_afterRefills]
  exact refillOfb_of_running hsize (hlen j) rfl

/-! ### CTR (R243, R244) -/

theorem update_of_ctr {s : State} (hmode : s.mode = .ctr) (d : Direction) (data : Bytes) :
    update Config.env d data s = streamUpdate (bufferedByte (refillCtr Config.env)) data s := by
  rw [update, hmode]
  rfl

theorem counterAt_length (s : State) (j : Nat) : (counterAt s j).length = s.blockSize :=
  int2be_length _ _

/-- One refill of R244: the counter block is encrypted, and the counter advances modulo 2^128. -/
theorem refillCtr_eq (s : State) :
    refillCtr Config.env s = { s.log (.e1 (counterBlock s)) with
      ctr := s.ctr + 1, ks := Config.env.e1 (counterBlock s) } := rfl

/-- The refills of CTR: the calls are on the successive counter blocks (R243, R244). -/
def ctrRefills (s : State) : Refills where
  iv _ := s.iv
  ctr j := s.ctr + BitVec.ofNat 128 j
  call j := .e1 (counterAt s j)
  block j := Config.env.e1 (counterAt s j)

theorem ctrRefills_ctr_succ (s : State) (j : Nat) : (ctrRefills s).ctr (j + 1) = (ctrRefills s).ctr j + 1 := by
  simp [ctrRefills, BitVec.ofNat_add, BitVec.add_assoc]

/-- Settles O37: a refill of CTR takes the counter to the next value. -/
theorem ctrXorsTheEncryptedCounter : Obligations.CtrXorsTheEncryptedCounter := by
  intro d s hd hmode hpos hlock hroom
  refine exec_cryptInstr_of_refills (q := ctrRefills s) hd (by rw [hmode]; rfl) hlock hroom hpos
    (fun _ hu => update_of_ctr (hu.trans hmode) d s.ibuf) rfl (BitVec.add_zero s.ctr)
    (fun j => (Config.env.e1_length _).trans (counterAt_length s j)) ?_
  intro j
  rw [← log_afterRefills, ctrRefills_ctr_succ, refillCtr_eq]
  rfl

end

end Sys2Proof.Proofs

/-! Family 45_cmac.md: ENC in CMAC (R284). The chunks before the last are followed by naming what goes into the
codebook for each; the last chunk and the number of chunks are two equations, and the tag is their composition. -/

namespace Sys2Proof.Proofs

section
open Sys2Proof Sys2Proof.Machine Sys2Proof.Expected

/-! ### The chunks before the last -/

/-- What the codebook is called on for chunk i: the chunk, XORed with the chaining value before it. -/
def cmacChunkInput (bs : Nat) (data : Bytes) (i : Nat) : Bytes :=
  xorBytes (cmacChainValue bs data i) (blockAt bs data i)

theorem cmacChainValue_succ (bs : Nat) (data : Bytes) (i : Nat) :
    cmacChainValue bs data (i + 1) = Config.env.e1 (cmacChunkInput bs data i) := rfl

/-- Chaining one chunk more is one call on it and the chaining value so far. -/
theorem cmacChain_append_singleton (K : Environment) (l : List Bytes) (b x : Bytes) (s : State) :
    cmacChain K (l ++ [b]) x s = callE1 K (xorBytes (cmacChain K l x s).1 b) (cmacChain K l x s).2 := by
  induction l generalizing x s with
  | nil => rfl
  | cons c l ih => exact ih _ _

/-- The first n chunks, chained from zero: the chaining value after them, and one call a chunk. -/
theorem cmacChain_chunks (bs n : Nat) (data : Bytes) (s : State) :
    cmacChain Config.env (chunks bs n data) (zeros bs) s = (cmacChainValue bs data n,
      { s with events := s.events ++ (List.range n).map fun i => .e1 (cmacChunkInput bs data i) }) := by
  rw [chunks_eq_map_blockAt]
  induction n with
  | zero => simp [cmacChain, cmacChainValue, zeros]
  | succ n ih =>
    rw [List.range_succ, List.map_append, List.map_singleton, cmacChain_append_singleton, ih, cmacChainValue_succ]
    simp [callE1, State.log, cmacChunkInput]

/-! ### The last chunk -/

/-- The model counts the chunks by rounding up, at least one; all of them but the last are chained. -/
theorem cmacBlocks_sub_one (n : Nat) {bs : Nat} (hbs : 1 ≤ bs) : cmacBlocks n bs - 1 = cmacChained n bs := by
  rw [cmacBlocks, cmacChained]
  cases n with
  | zero =>
    rw [Nat.zero_sub, Nat.zero_div, Nat.div_eq_of_lt (by omega)]
    rfl
  | succ n =>
    rw [show n + 1 + bs - 1 = n + bs by omega, Nat.add_div_right n hbs, Nat.max_eq_right (Nat.succ_pos _)]
    rfl

/-- The input of the last call: the chaining value, XORed with the masked last chunk. -/
theorem cmacFinalInput_eq (s : State) :
    let i := cmacChained s.ibuf.length s.blockSize
    cmacFinalInput s =
      xorBytes (cmacChainValue s.blockSize s.ibuf i) (cmacLast (s.ibuf.drop (s.blockSize * i)) s) := by
  simp only [cmacFinalInput, cmacLast, zeros, List.append_assoc, List.singleton_append]

/-- The padding of the last chunk and its subkey do not depend on the direction or the input queue. -/
theorem cmacLast_with_dir_ibuf (last : Bytes) (d : Direction) (buf : Bytes) (s : State) :
    cmacLast last { s with dir := d, ibuf := buf } = cmacLast last s := rfl

/-! ### ENC in CMAC (R202, R204, R284) -/

theorem update_of_cmac {s : State} (hmode : s.mode = .cmac) (d : Direction) (data : Bytes) :
    update Config.env d data s = updateCmac Config.env data s := by
  rw [update, hmode]

theorem cryptCheck_eq_none_of_cmac {s : State} (hmode : s.mode = .cmac) (hlock : Unlocked .encrypting s)
    (hroom : Room s.blockSize s) : cryptCheck .encrypting s = none := by
  have hdir : ¬ (s.dir ≠ .unset ∧ s.dir ≠ .encrypting) := by
    rintro ⟨hunset, hother⟩
    exact hlock.elim hunset hother
  have hout : outlen s.ibuf.length s = s.blockSize := by rw [outlen, hmode]
  have hfits : ¬ s.ports.obufCap < s.obuf.length + outlen s.ibuf.length s := by
    rw [hout]
    exact Nat.not_lt_of_le hroom
  simp [cryptCheck, hmode, hdir, hfits]

/-- The tag of the message, computed once the direction is set and IBUF is taken. -/
theorem updateCmac_of_taken {s : State} (hsize : 1 ≤ s.blockSize) (d : Direction) :
    updateCmac Config.env s.ibuf { s with dir := d, ibuf := [] } =
      (Config.env.e1 (cmacFinalInput s), { s with
        dir := d
        ibuf := []
        events := s.events ++ (List.range (cmacChained s.ibuf.length s.blockSize)).map
          (fun i => .e1 (cmacChunkInput s.blockSize s.ibuf i)) ++ [.e1 (cmacFinalInput s)] }) := by
  simp only [updateCmac, cmacBlocks_sub_one _ hsize, cmacChain_chunks, cmacLast_with_dir_ibuf, ← cmacFinalInput_eq]
  rfl

/-- Settles O42: the checks pass, and the update is the tag of the input. -/
theorem cmacAppendsTheTag : Obligations.CmacAppendsTheTag := by
  intro s hmode hlock hsize hroom
  rcases crypt_spec Config.env .encrypting (encode (cryptInstr .encrypting)) s with ⟨k, hk, -⟩ | ⟨-, hfeed⟩
  · rw [cryptCheck_eq_none_of_cmac hmode hlock hroom] at hk
    cases hk
  · have hexec := exec_cryptInstr (.inl rfl) s
    rw [hfeed, feed, update_of_cmac (s := { s with dir := .encrypting, ibuf := [] }) hmode,
      updateCmac_of_taken hsize] at hexec
    exact hexec

end

end Sys2Proof.Proofs

/-! Family other, the command words (R111 to R120, R126): decoding and encoding undo each other, and the reserved
words are the illegal ones. A word is put together again from its fields, format by format. -/

namespace Sys2Proof.Proofs

section
open Sys2Proof Sys2Proof.Machine Sys2Proof.Expected

/-! ### Decoding a command's own word -/

/-- The fields of the one command word that has an operand (R111, R115). -/
theorem encode_initCfb_fields (seg : BitVec 5) :
    (encode (.initCfb seg)).extractLsb' 0 8 = 0x01#8 ∧ (encode (.initCfb seg)).extractLsb' 8 4 = 3#4 ∧
      (encode (.initCfb seg)).extractLsb' 12 4 = 0 ∧ (encode (.initCfb seg)).extractLsb' 16 5 = seg ∧
      (encode (.initCfb seg)).extractLsb' 21 11 = 0 := by
  revert seg
  decide

theorem decode_encode_initCfb {bs1 : Nat} {seg : BitVec 5} (h : seg.toNat ≤ bs1) :
    decode bs1 (encode (.initCfb seg)) = .command (.initCfb seg) := by
  obtain ⟨hopc, hmode, hlow, hseg, hhigh⟩ := encode_initCfb_fields seg
  simp [decode, decodeM, hopc, hmode, hlow, hseg, hhigh, Nat.not_lt_of_le h]

/-- Settles O1: the words without an operand are closed, and INIT.CFB keeps its segment. -/
theorem decodeOfEncodeIsTheCommand : Obligations.DecodeOfEncodeIsTheCommand := by
  intro bs1 i hwf
  cases i
  case initCfb seg => exact decode_encode_initCfb (by simpa [wellFormed] using hwf)
  all_goals rfl

/-! ### A word from its fields -/

/-- Two neighbouring fields read as one. -/
theorem extractLsb'_toNat_add (w : Word) (lo m n : Nat) :
    (w.extractLsb' lo (m + n)).toNat = (w.extractLsb' lo m).toNat + 2 ^ m * (w.extractLsb' (lo + m) n).toNat := by
  simp only [BitVec.extractLsb'_toNat, Nat.shiftRight_eq_div_pow, Nat.pow_add, ← Nat.div_div_eq_div_mul, Nat.mod_mul]

theorem extractLsb'_whole_toNat (w : Word) : (w.extractLsb' 0 32).toNat = w.toNat := by
  rw [BitVec.extractLsb'_eq_self]

/-- A word of format N, P or G: OPC and the 24 bits above it. -/
theorem toNat_of_opcode (w : Word) :
    w.toNat = (w.extractLsb' 0 8).toNat + 2 ^ 8 * (w.extractLsb' 8 24).toNat := by
  rw [← extractLsb'_toNat_add w 0 8 24, extractLsb'_whole_toNat]

/-- A word of format N is its opcode (R114). -/
theorem encode_eq_of_decodeN {w : Word} {i j : Instr} (h : decodeN w i = .command j)
    (hi : (w.extractLsb' 0 8).toNat = (encode i).toNat) : encode j = w ∧ j = i := by
  unfold decodeN at h
  split at h
  case isFalse => cases h
  case isTrue hzero =>
    cases h
    refine ⟨BitVec.eq_of_toNat_eq ?_, rfl⟩
    rw [toNat_of_opcode w, hzero, hi]
    rfl

/-- A word of format M: OPC, MODE and SEG (R115). -/
theorem encode_eq_of_decodeM {bs1 : Nat} {w : Word} {i : Instr} (hopc : (w.extractLsb' 0 8).toNat = 0x01)
    (h : decodeM bs1 w = .command i) : encode i = w ∧ wellFormed bs1 i = true := by
  have hfields : w.toNat = (w.extractLsb' 0 8).toNat + 2 ^ 8 * ((w.extractLsb' 8 4).toNat + 2 ^ 4 *
      ((w.extractLsb' 12 4).toNat + 2 ^ 4 * ((w.extractLsb' 16 5).toNat + 2 ^ 5 * (w.extractLsb' 21 11).toNat))) := by
    rw [← extractLsb'_toNat_add w 16 5 11, ← extractLsb'_toNat_add w 12 4 16, ← extractLsb'_toNat_add w 8 4 20,
      ← toNat_of_opcode]
  unfold decodeM at h
  split at h
  case isTrue => cases h
  case isFalse hbits =>
    obtain ⟨hhigh, hlow⟩ : w.extractLsb' 21 11 = 0 ∧ w.extractLsb' 12 4 = 0 := by simpa using hbits
    rw [hopc, hhigh, hlow] at hfields
    have hnoSeg (j : Instr) (hj : (encode j).toNat = 0x01 + 2 ^ 8 * (w.extractLsb' 8 4).toNat)
        (hwf : wellFormed bs1 j = true) (hd : decodeNoSeg (w.extractLsb' 16 5) j = .command i) :
        encode i = w ∧ wellFormed bs1 i = true := by
      have hseg := decodeNoSeg_eq_command hd
      rw [decodeNoSeg, if_pos hseg] at hd
      cases hd
      refine ⟨BitVec.eq_of_toNat_eq ?_, hwf⟩
      rw [hj, hfields, hseg]
      rfl
    dsimp only at h
    split at h
    case h_3 hmode =>
      split at h
      case isTrue => cases h
      case isFalse hseg =>
        cases h
        refine ⟨BitVec.eq_of_toNat_eq ?_, by simpa [wellFormed] using Nat.le_of_not_lt hseg⟩
        have hword (seg : BitVec 5) :
            (encode (.initCfb seg)).toNat = 0x01 + 2 ^ 8 * (3 + 2 ^ 4 * (2 ^ 4 * seg.toNat)) := by
          revert seg
          decide
        rw [hword, hfields, hmode]
        simp
    case h_8 => cases h
    all_goals
      rename_i hmode
      exact hnoSeg _ (by rw [hmode]; rfl) rfl h

/-- A word of format P: OPC and PAD (R116). -/
theorem encode_eq_of_decodeP {w : Word} {i : Instr} (hopc : (w.extractLsb' 0 8).toNat = 0x04)
    (h : decodeP w = .command i) : encode i = w ∧ ∃ p, i = finalInstr p := by
  have hfields := toNat_of_opcode w
  rw [extractLsb'_toNat_add w 8 3 21, hopc] at hfields
  unfold decodeP at h
  split at h
  case isTrue => cases h
  case isFalse hbits =>
    rw [not_not.mp hbits] at hfields
    split at h
    case h_6 => cases h
    all_goals
      rename_i hpad
      cases h
      refine ⟨BitVec.eq_of_toNat_eq ?_, ?_⟩
      · rw [hfields, hpad]
        rfl
    · exact ⟨.bitPadding, rfl⟩
    · exact ⟨.zerosPadding, rfl⟩
    · exact ⟨.pkcs7, rfl⟩
    · exact ⟨.ansiX923, rfl⟩
    · exact ⟨.iso10126, rfl⟩

/-- A word of format G: OPC and W (R117). -/
theorem encode_eq_of_decodeG {w : Word} {i : Instr} (hopc : (w.extractLsb' 0 8).toNat = 0x12)
    (h : decodeG w = .command i) : encode i = w ∧ (i = .gfdbl ∨ i = .gfdbl64) := by
  have hfields := toNat_of_opcode w
  have hw : (w.extractLsb' 8 1).toNat = (w.getLsbD 8).toNat := by
    rw [BitVec.extractLsb'_toNat, ← BitVec.testBit_toNat, Nat.toNat_testBit, Nat.shiftRight_eq_div_pow]
  rw [extractLsb'_toNat_add w 8 1 23, hopc, hw] at hfields
  unfold decodeG at h
  split at h
  case isTrue => cases h
  case isFalse hbits =>
    rw [not_not.mp hbits] at hfields
    cases hbit : w.getLsbD 8
    all_goals
      rw [hbit] at h
      cases h
      refine ⟨BitVec.eq_of_toNat_eq ?_, by simp⟩
      rw [hfields, hbit]
      rfl

/-- Settles O2: format by format. -/
theorem encodeOfDecodeIsTheWord : Obligations.EncodeOfDecodeIsTheWord := by
  intro bs1 w i h
  unfold decode at h
  split at h
  case h_2 hopc => exact encode_eq_of_decodeM hopc h
  case h_5 hopc =>
    obtain ⟨hw, p, rfl⟩ := encode_eq_of_decodeP hopc h
    exact ⟨hw, by cases p <;> rfl⟩
  case h_12 hopc =>
    obtain ⟨hw, rfl | rfl⟩ := encode_eq_of_decodeG hopc h
    · exact ⟨hw, rfl⟩
    · exact ⟨hw, rfl⟩
  case h_13 => cases h
  all_goals
    rename_i hopc
    obtain ⟨hw, rfl⟩ := encode_eq_of_decodeN h hopc
    exact ⟨hw, rfl⟩

/-! ### The words that are no command (R118, R119, R120) -/

/-- A field with a bit set leaves something under its mask, and under every mask that covers its own. -/
theorem and_ne_zero_of_field {w m : Word} {lo n : Nat} (hm : fieldMask lo n &&& m = fieldMask lo n)
    (h : w.extractLsb' lo n ≠ 0) : w &&& m ≠ 0#32 := by
  intro hzero
  apply h
  apply BitVec.eq_of_getLsbD_eq
  intro i hi
  rw [BitVec.getLsbD_extractLsb', decide_eq_true hi, Bool.true_and]
  have hand : (w &&& fieldMask lo n).getLsbD (lo + i) = false := by
    rw [← hm, BitVec.and_comm (fieldMask lo n), ← BitVec.and_assoc, hzero, BitVec.zero_and, BitVec.getLsbD_zero]
  by_cases hin : lo + i < 32
  · rw [BitVec.getLsbD_and, fieldMask_getLsbD hin, decide_eq_true (by omega), Bool.and_true] at hand
    rw [hand]
    exact BitVec.getLsbD_zero.symm
  · rw [BitVec.getLsbD_of_ge w _ (by omega)]
    exact BitVec.getLsbD_zero.symm

theorem decodeN_eq_illegal {w : Word} {i : Instr} {r : Reject} (h : decodeN w i = .illegal r) :
    w &&& 0xFFFFFF00#32 ≠ 0#32 := by
  unfold decodeN at h
  split at h
  case isTrue => cases h
  case isFalse hbits => exact and_ne_zero_of_field (lo := 8) (n := 24) (by decide) hbits

theorem decodeG_eq_illegal {w : Word} {r : Reject} (h : decodeG w = .illegal r) : w &&& 0xFFFFFE00#32 ≠ 0#32 := by
  unfold decodeG at h
  split at h
  case isTrue hbits => exact and_ne_zero_of_field (lo := 9) (n := 23) (by decide) hbits
  case isFalse => split at h <;> cases h

theorem decodeP_eq_illegal {w : Word} {r : Reject} (h : decodeP w = .illegal r) :
    w &&& 0xFFFFF800#32 ≠ 0#32 ∨ 5 ≤ (w.extractLsb' 8 3).toNat := by
  unfold decodeP at h
  split at h
  case isTrue hbits => exact .inl (and_ne_zero_of_field (lo := 11) (n := 21) (by decide) hbits)
  case isFalse =>
    split at h
    case h_6 =>
      simp only [imp_false] at *
      exact .inr (by omega)
    all_goals cases h

theorem decodeNoSeg_eq_illegal {seg : BitVec 5} {i : Instr} {r : Reject} (h : decodeNoSeg seg i = .illegal r) :
    seg ≠ 0 := by
  unfold decodeNoSeg at h
  split at h
  case isTrue => cases h
  case isFalse hseg => exact hseg

theorem decodeM_eq_illegal {bs1 : Nat} {w : Word} {r : Reject} (h : decodeM bs1 w = .illegal r) :
    w &&& 0xFFE0F000#32 ≠ 0#32 ∨ ¬ InitOperandsLegal bs1 (w.extractLsb' 8 4).toNat (w.extractLsb' 16 5).toNat := by
  unfold decodeM at h
  split at h
  case isTrue hbits =>
    rcases hbits with hhigh | hlow
    · exact .inl (and_ne_zero_of_field (lo := 21) (n := 11) (by decide) hhigh)
    · exact .inl (and_ne_zero_of_field (lo := 12) (n := 4) (by decide) hlow)
  case isFalse =>
    refine .inr ?_
    rintro ⟨hlow, hhigh, hother, hcfb⟩
    dsimp only at h
    split at h
    case h_3 hmode =>
      split at h
      case isTrue hseg => exact absurd (hcfb hmode) (Nat.not_le_of_lt hseg)
      case isFalse => cases h
    case h_8 =>
      simp only [imp_false] at *
      omega
    all_goals
      rename_i hmode
      exact decodeNoSeg_eq_illegal h (BitVec.eq_of_toNat_eq (hother (by rw [hmode]; decide)))

theorem reservedField_of_init {bs1 : Nat} {w : Word} (hopc : w &&& 0xFF#32 = 0x01#32)
    (h : ¬ InitOperandsLegal bs1 (w.extractLsb' 8 4).toNat (w.extractLsb' 16 5).toNat) : ReservedField bs1 w := by
  have hmode (n : Nat) (hn : n < 16) : (w >>> 8) &&& 0xF#32 = BitVec.ofNat 32 n ↔ (w.extractLsb' 8 4).toNat = n := by
    rw [← BitVec.toNat_inj, mode_toNat, BitVec.toNat_ofNat, Nat.mod_eq_of_lt (by omega)]
  have hseg : (w >>> 16) &&& 0x1F#32 = 0#32 ↔ (w.extractLsb' 16 5).toNat = 0 := by
    rw [← BitVec.toNat_inj, seg_toNat]
    rfl
  refine .inl ⟨hopc, ?_⟩
  simp only [hmode 0 (by decide), hmode 3 (by decide), ne_eq, hseg, seg_toNat, BitVec.le_def, mode_toNat]
  simp only [InitOperandsLegal] at h
  simp only [BitVec.toNat_ofNat, Nat.reduceMod, Nat.reducePow]
  omega

theorem reservedField_of_final {bs1 : Nat} {w : Word} (hopc : w &&& 0xFF#32 = 0x04#32)
    (h : 5 ≤ (w.extractLsb' 8 3).toNat) : ReservedField bs1 w := by
  rw [← pad_toNat] at h
  exact .inr ⟨hopc, h⟩

theorem reservedWord_of_decode_eq_illegal {bs1 : Nat} {w : Word} {r : Reject} (h : decode bs1 w = .illegal r) :
    ReservedWord bs1 w := by
  have hopcode {n : Nat} (hn : n < 256) (heq : (w.extractLsb' 0 8).toNat = n) : w &&& 0xFF#32 = BitVec.ofNat 32 n :=
    (opcode_eq_iff w hn).mpr heq
  unfold decode at h
  split at h
  case h_2 heq =>
    have hopc := hopcode (by decide) heq
    rcases decodeM_eq_illegal h with hbits | hfield
    · exact .inr (.inl (by rwa [zeroBits, if_pos hopc]))
    · exact .inr (.inr (reservedField_of_init hopc hfield))
  case h_5 heq =>
    have hopc := hopcode (by decide) heq
    rcases decodeP_eq_illegal h with hbits | hfield
    · exact .inr (.inl (by rw [zeroBits, hopc]; exact hbits))
    · exact .inr (.inr (reservedField_of_final hopc hfield))
  case h_12 heq =>
    have hopc := hopcode (by decide) heq
    exact .inr (.inl (by rw [zeroBits, hopc]; exact decodeG_eq_illegal h))
  case h_13 =>
    refine .inl ((reservedOpcode_iff w).mpr ?_)
    simp only [imp_false] at *
    omega
  all_goals
    rename_i heq
    have hopc := hopcode (by decide) heq
    exact .inr (.inl (by rw [zeroBits, hopc]; exact decodeN_eq_illegal h))

/-- Settles O3: the decoder refuses a word for a reserved opcode, bit or field only, and never accepts one. -/
theorem illegalWordsAreTheReservedOnes : Obligations.IllegalWordsAreTheReservedOnes := by
  intro bs1 w
  constructor
  · rintro ⟨r, h⟩
    exact reservedWord_of_decode_eq_illegal h
  · intro hres
    cases h : decode bs1 w with
    | command i => exact absurd hres (not_reservedWord_of_decode_eq_command h)
    | illegal r => exact ⟨r, rfl⟩

/-- Settles O4: by running the decoder on each word. -/
theorem sampleWordsDecode : Obligations.SampleWordsDecode := by
  unfold Obligations.SampleWordsDecode
  decide

end

end Sys2Proof.Proofs

/-! Family other, the host port (R70 to R88, R110, R125, R335, R370): what an access of each kind does. The register
map is inverted once (`offset_of_slotAt`), a read and a plain write get one frame lemma each, and the packed words one
rule for the value of a concatenation. -/

namespace Sys2Proof.Proofs

section
open Sys2Proof Sys2Proof.Machine Sys2Proof.Expected

/-! ### The register map (R71, R112) -/

/-- The offset of a control register; the block registers and the reserved offsets have no single one. -/
def controlOffset : Slot → Option Nat
  | .id => some 0x00
  | .cap => some 0x04
  | .cmd => some 0x08
  | .status => some 0x0C
  | .errcmd => some 0x10
  | .bufstat => some 0x14
  | .ilevel => some 0x18
  | .olevel => some 0x1C
  | .din => some 0x20
  | .dout => some 0x24
  | .xtsmax => some 0x28
  | .param => some 0x2C
  | .gfn => some 0x30
  | .block _ _ | .reserved => none

/-- Each control register stands at one offset only. -/
theorem offset_of_slotAt {off n : Nat} (h : controlOffset (slotAt off) = some n) : off = n := by
  unfold slotAt at h
  split at h
  case h_14 => split at h <;> cases h
  all_goals exact Option.some.inj h

theorem slotAt_ne_of_offset {off n : Nat} {slot : Slot} (hslot : controlOffset slot = some n) (hne : off ≠ n) :
    slotAt off ≠ slot :=
  fun h => hne (offset_of_slotAt (h ▸ hslot))

/-- Every offset from 0xD0 on is reserved (R74). -/
theorem slotAt_of_high {off : Nat} (h : 0xD0 ≤ off) : slotAt off = .reserved := by
  unfold slotAt
  split
  case h_14 => exact if_neg (by omega)
  all_goals omega

/-! ### Reads and plain writes, by slot -/

theorem readSlot_of_ne_dout {slot : Slot} (h : slot ≠ .dout) (s : State) :
    readSlot slot s = s.reply (slotValue slot s) := by
  cases slot
  case dout => exact absurd rfl h
  all_goals rfl

/-- A read returns a value; of the unit it can change OBUF only (R75, R87). -/
theorem readSlot_frame (slot : Slot) (s : State) :
    ∃ obuf v, readSlot slot s = { s with obuf := obuf, replies := s.replies ++ [v] } ∧
      (obuf = s.obuf ∨ obuf = s.obuf.tail) := by
  by_cases hdout : slot = .dout
  · subst hdout
    rcases popDout_spec s with ⟨-, h⟩ | ⟨b, rest, hcons, h⟩
    · exact ⟨s.obuf, doutEmpty, by rw [readSlot, h, State.reply], .inl rfl⟩
    · exact ⟨rest, b.setWidth 32, by rw [readSlot, h, State.reply], .inr (by rw [hcons, List.tail_cons])⟩
  · exact ⟨s.obuf, slotValue slot s, by rw [readSlot_of_ne_dout hdout, State.reply], .inl rfl⟩

theorem hostWriteBlock_frame (r : BlockReg) (x : Block) (s : State) :
    ∃ iv ctr tweak gfa gfb, hostWriteBlock r x s =
      { s with iv := iv, ctr := ctr, tweak := tweak, gfa := gfa, gfb := gfb } := by
  cases r <;> exact ⟨_, _, _, _, _, rfl⟩

/-- A plain write other than a push touches the writable registers only (R23, R46 to R48, R80). -/
theorem writeSlot_frame {slot : Slot} (h : slot ≠ .din) (v : Word) (s : State) :
    ∃ iv ctr tweak gfa gfb ivLen tweakLen ctrSet xtsMax gfn, writeSlot slot v s =
      { s with iv := iv, ctr := ctr, tweak := tweak, gfa := gfa, gfb := gfb, ivLen := ivLen, tweakLen := tweakLen,
               ctrSet := ctrSet, xtsMax := xtsMax, gfn := gfn } := by
  cases slot
  case din => exact absurd rfl h
  case block r k =>
    obtain ⟨iv, ctr, tweak, gfa, gfb, hw⟩ := hostWriteBlock_frame r (setWord (readBlock r s) k v) s
    exact ⟨iv, ctr, tweak, gfa, gfb, s.ivLen, s.tweakLen, s.ctrSet, s.xtsMax, s.gfn, hw⟩
  all_goals exact ⟨_, _, _, _, _, _, _, _, _, _, rfl⟩

theorem run_succ_of_step {s s' : State} (h : step s = .next s') (n : Nat) :
    Host.Core.run core (n + 1) s = Host.Core.run core n s' := by
  simp only [Host.Core.run, core, h]

/-! ### Which accesses complete, and which stop (R72, R73, R83, R84) -/

/-- Settles O5: the word is not blocked, and decodes. -/
theorem stepRunsTheDecodedCommand : Obligations.StepRunsTheDecodedCommand := by
  intro s w rest i h hfree hdec
  rw [step_of_cmd_write h]
  rcases issue_spec w { s with host := rest } with ⟨hblocked, -⟩ | ⟨-, j, hj, hexec⟩ | ⟨-, ⟨r, hr⟩, -⟩
  · obtain ⟨herr, h7, h8⟩ := (blocked_iff w _).mp hblocked
    rcases hfree with hnone | hw | hw
    · exact absurd hnone herr
    · exact absurd hw h7
    · exact absurd hw h8
  · rw [hdec] at hj
    cases hj
    exact hexec
  · rw [hdec] at hr
    cases hr

/-- Settles O9: the width, then the alignment, then the range. -/
theorem otherAccessesStop : Obligations.OtherAccessesStop := by
  refine ⟨?_, ?_, ?_, ?_⟩
  · intro s b n off rest h
    rw [step_of_host_cons h, serve]
  · intro s off v rest hmis h
    rcases h with h | h
    · rw [step_of_host_cons h, serve, atOffset, if_pos hmis]
    · rw [step_of_host_cons h, serve, atOffset, if_pos hmis]
  · intro s off v rest halign hrange h
    have hok : ¬ off % 4 ≠ 0 := not_not.mpr halign
    rcases h with h | h
    · rw [step_of_host_cons h, serve, atOffset, if_neg hok, if_pos hrange]
    · rw [step_of_host_cons h, serve, atOffset, if_neg hok, if_pos hrange]
  · intro s h
    rw [step, h]

theorem issue_answers_next (w : Word) (s : State) : ∃ s', issue w s = .next s' := by
  rcases issue_spec w s with ⟨-, h⟩ | ⟨-, i, -, h⟩ | ⟨-, -, h⟩
  · exact ⟨_, h⟩
  · rw [h]
    exact exec_answers_next i s
  · exact ⟨_, h⟩

theorem step_of_accepted {s : State} {e : HostEvent} {rest : List HostEvent} (h : s.host = e :: rest)
    (he : Accepted e) : ∃ s', step s = .next s' := by
  cases e with
  | read off => exact ⟨_, step_of_read h he.1 he.2⟩
  | write off v =>
    by_cases hcmd : off = 0x08
    · subst hcmd
      rw [step_of_cmd_write h]
      exact issue_answers_next v _
    · exact ⟨_, step_of_plain_write h he.1 he.2 hcmd⟩
  | otherWidth b n off => exact he.elim
  | resetInput => exact ⟨_, step_of_host_cons h⟩

theorem issue_keeps_host_side {w : Word} {s s' : State} (h : issue w s = .next s') : HostSideKept s s' := by
  rcases issue_spec w s with ⟨-, g⟩ | ⟨-, i, -, g⟩ | ⟨-, -, g⟩
  · rw [g] at h
    cases h
    exact ⟨rfl, rfl, rfl⟩
  · rw [g] at h
    exact exec_keeps_host_side i s s' h
  · rw [g] at h
    cases h
    exact .latch _ _ s

theorem writeSlot_keeps_host_side (slot : Slot) (v : Word) (s : State) : HostSideKept s (writeSlot slot v s) := by
  by_cases hdin : slot = .din
  · subst hdin
    rcases pushDin_spec v s with ⟨-, h⟩ | ⟨-, h⟩
    · rw [writeSlot, h]
      exact ⟨rfl, rfl, rfl⟩
    · rw [writeSlot, h]
      exact .latch _ _ s
  · obtain ⟨_, _, _, _, _, _, _, _, _, _, h⟩ := writeSlot_frame hdin v s
    exact h ▸ ⟨rfl, rfl, rfl⟩

/-- A step takes the oldest access, and no other, and keeps the port signals (R83, R381). -/
theorem step_takes_one_access {s s' : State} (h : step s = .next s') :
    s'.host = s.host.tail ∧ s'.ports = s.ports := by
  rcases step_cases h with ⟨hnil, rfl⟩ | ⟨rest, ⟨off, hh, -, -, rfl⟩ | ⟨w, hh, hissue⟩ | ⟨off, v, hh, -, -, -, rfl⟩ |
    ⟨hh, rfl⟩⟩
  · rw [hnil]
    exact ⟨rfl, rfl⟩
  · obtain ⟨obuf, v, hread, -⟩ := readSlot_frame (slotAt off) { s with host := rest }
    rw [hread, hh]
    exact ⟨rfl, rfl⟩
  · obtain ⟨hhost, -, hports⟩ := issue_keeps_host_side hissue
    exact ⟨by rw [hhost, hh, List.tail_cons], hports⟩
  · obtain ⟨hhost, -, hports⟩ := writeSlot_keeps_host_side (slotAt off) v { s with host := rest }
    exact ⟨by rw [hhost, hh, List.tail_cons], hports⟩
  · rw [hh]
    exact ⟨rfl, rfl⟩

/-- Settles O8: an accepted access completes, and is the one that the step takes. -/
theorem everyAcceptedAccessCompletes : Obligations.EveryAcceptedAccessCompletes := by
  intro s e rest h he
  obtain ⟨s', hstep⟩ := step_of_accepted h he
  obtain ⟨hhost, hports⟩ := step_takes_one_access hstep
  exact ⟨s', hstep, by rw [hhost, h, List.tail_cons], hports⟩

/-! ### A latched error and the accesses (R335) -/

/-- No plain write looks at the latch, but a push into a full queue. -/
theorem writeSlot_with_latch {slot : Slot} {s : State} (hroom : slot = .din → s.ibuf.length < s.ports.ibufCap)
    (v : Word) (k : Option ErrorKind) (c : Word) :
    writeSlot slot v { s with err := k, errcmd := c } = { writeSlot slot v s with err := k, errcmd := c } := by
  cases slot
  case din =>
    have h := hroom rfl
    simp only [writeSlot, pushDin, if_pos h]
  case block r k => cases r <;> rfl
  all_goals rfl

/-- No read looks at the latch, but those of STATUS and ERRCMD. -/
theorem readSlot_with_latch {slot : Slot} (hstatus : slot ≠ .status) (herrcmd : slot ≠ .errcmd) (s : State)
    (k : Option ErrorKind) (c : Word) :
    readSlot slot { s with err := k, errcmd := c } = { readSlot slot s with err := k, errcmd := c } := by
  cases slot
  case status => exact absurd rfl hstatus
  case errcmd => exact absurd rfl herrcmd
  case dout =>
    simp only [readSlot, popDout_eq_ite, State.reply]
    split <;> rfl
  case block r k => cases r <;> rfl
  all_goals rfl

/-- Settles O7: a blocked word is ignored, and the other accesses do not look at the latch. -/
theorem latchedErrorBlocksCommandsOnly : Obligations.LatchedErrorBlocksCommandsOnly := by
  refine ⟨?_, ?_, ?_⟩
  · intro s w rest h herr h7 h8
    have hblocked : blocked w { s with host := rest } = true := (blocked_iff w _).mpr ⟨herr, h7, h8⟩
    rw [step_of_cmd_write h, issue, if_pos hblocked]
  · intro s off v rest k c h halign hrange hcmd hroom
    refine ⟨_, step_of_plain_write h halign hrange hcmd, ?_⟩
    have hlatch : ({ s with err := k, errcmd := c } : State).host = .write off v :: rest := h
    rw [step_of_plain_write hlatch halign hrange hcmd]
    exact congrArg _ (writeSlot_with_latch (s := { s with host := rest })
      (fun hslot => hroom (offset_of_slotAt (by rw [hslot]; rfl))) v k c)
  · intro s off rest k c h halign hrange hstatus herrcmd
    refine ⟨_, step_of_read h halign hrange, ?_⟩
    have hlatch : ({ s with err := k, errcmd := c } : State).host = .read off :: rest := h
    rw [step_of_read hlatch halign hrange]
    exact congrArg _ (readSlot_with_latch (slotAt_ne_of_offset rfl hstatus) (slotAt_ne_of_offset rfl herrcmd)
      { s with host := rest } k c)

/-! ### Reads of the control registers (R40 to R49, R74, R75, R80) -/

theorem slotValue_with_host (slot : Slot) (s : State) (l : List HostEvent) :
    slotValue slot { s with host := l } = slotValue slot s := by
  cases slot
  case block r k => cases r <;> rfl
  case dout =>
    simp only [slotValue, popDout_eq_ite]
    split <;> rfl
  all_goals rfl

theorem step_of_read_ne_dout {s : State} {off : Nat} {rest : List HostEvent} (h : s.host = .read off :: rest)
    (halign : off % 4 = 0) (hrange : off < 0x100) (hdout : off ≠ 0x24) :
    step s = .next { s with host := rest, replies := s.replies ++ [slotValue (slotAt off) s] } := by
  rw [step_of_read h halign hrange, readSlot_of_ne_dout (slotAt_ne_of_offset rfl hdout), slotValue_with_host,
    State.reply]

/-- Settles O18: the value returned is the slot's. -/
theorem readsHaveNoSideEffect : Obligations.ReadsHaveNoSideEffect := by
  intro s off rest h halign hrange hdout
  exact ⟨_, step_of_read_ne_dout h halign hrange hdout⟩

/-- The value of a concatenation, its left part standing above the right one. -/
theorem toNat_append_eq_add {m n : Nat} (x : BitVec m) (y : BitVec n) :
    (x ++ y).toNat = 2 ^ n * x.toNat + y.toNat := by
  rw [BitVec.toNat_append, ← Nat.shiftLeft_add_eq_or_of_lt y.isLt, Nat.shiftLeft_eq, Nat.mul_comm]

theorem flagBit_toNat (b : Bool) : (flagBit b).toNat = b.toNat := by
  cases b <;> rfl

theorem capWord_toNat {p : Ports} (h : p.Legal) :
    (capWord p).toNat = p.bs1 + (if p.keyOk1 then 2 ^ 7 else 0) + 2 ^ 8 * p.bs2 + (if p.keyOk2 then 2 ^ 15 else 0) +
      2 ^ 16 * p.keyLen1.toNat + 2 ^ 24 * p.keyLen2.toNat := by
  obtain ⟨-, hbs1, -, hbs2, -, -⟩ := h
  simp only [capWord, toNat_append_eq_add, flagBit_toNat, BitVec.toNat_ofNat, Nat.zero_mod,
    Nat.mod_eq_of_lt (show p.bs1 < 2 ^ 5 by omega), Nat.mod_eq_of_lt (show p.bs2 < 2 ^ 5 by omega)]
  cases p.keyOk1 <;> cases p.keyOk2 <;> simp <;> omega

theorem paramWord_toNat (s : State) :
    (paramWord s).toNat = s.ivLen.toNat + 2 ^ 8 * s.tweakLen.toNat + (if s.ctrSet then 2 ^ 16 else 0) := by
  simp only [paramWord, toNat_append_eq_add, flagBit_toNat, BitVec.toNat_ofNat, Nat.zero_mod]
  cases s.ctrSet <;> simp <;> omega

/-- The value that a control register's read returns, and the offset it is at. -/
theorem slotValue_of_controlRead {s : State} {off : Nat} {v : Word}
    (h : (off = 0x00 ∧ v = 0x43500100#32) ∨
      (off = 0x04 ∧ s.ports.Legal ∧ v.toNat =
        s.ports.bs1 + (if s.ports.keyOk1 then 2 ^ 7 else 0) + 2 ^ 8 * s.ports.bs2 +
          (if s.ports.keyOk2 then 2 ^ 15 else 0) + 2 ^ 16 * s.ports.keyLen1.toNat +
          2 ^ 24 * s.ports.keyLen2.toNat) ∨
      (off = 0x10 ∧ v = s.errcmd) ∨
      (off = 0x18 ∧ s.ibuf.length < 2 ^ 32 ∧ v.toNat = s.ibuf.length) ∨
      (off = 0x1C ∧ s.obuf.length < 2 ^ 32 ∧ v.toNat = s.obuf.length) ∨
      (off = 0x28 ∧ v = s.xtsMax) ∨
      (off = 0x2C ∧ v.toNat =
        s.ivLen.toNat + 2 ^ 8 * s.tweakLen.toNat + (if s.ctrSet then 2 ^ 16 else 0)) ∨
      (off = 0x30 ∧ v = s.gfn) ∨
      ((off = 0x08 ∨ off = 0x20 ∨ off = 0x34 ∨ off = 0x38 ∨ off = 0x3C ∨
        (0xD0 ≤ off ∧ off < 0x100 ∧ off % 4 = 0)) ∧ v = 0)) :
    slotValue (slotAt off) s = v ∧ off % 4 = 0 ∧ off < 0x100 ∧ off ≠ 0x24 := by
  rcases h with ⟨rfl, rfl⟩ | ⟨rfl, hlegal, hv⟩ | ⟨rfl, rfl⟩ | ⟨rfl, hlen, hv⟩ | ⟨rfl, hlen, hv⟩ | ⟨rfl, rfl⟩ |
    ⟨rfl, hv⟩ | ⟨rfl, rfl⟩ | ⟨hoff, rfl⟩
  · exact ⟨rfl, by decide⟩
  · exact ⟨BitVec.eq_of_toNat_eq ((capWord_toNat hlegal).trans hv.symm), by decide⟩
  · exact ⟨rfl, by decide⟩
  · refine ⟨BitVec.eq_of_toNat_eq ?_, by decide⟩
    rw [hv]
    exact Nat.mod_eq_of_lt hlen
  · refine ⟨BitVec.eq_of_toNat_eq ?_, by decide⟩
    rw [hv]
    exact Nat.mod_eq_of_lt hlen
  · exact ⟨rfl, by decide⟩
  · exact ⟨BitVec.eq_of_toNat_eq ((paramWord_toNat s).trans hv.symm), by decide⟩
  · exact ⟨rfl, by decide⟩
  · rcases hoff with rfl | rfl | rfl | rfl | rfl | ⟨hhigh, hrange, halign⟩
    · exact ⟨rfl, by decide⟩
    · exact ⟨rfl, by decide⟩
    · exact ⟨rfl, by decide⟩
    · exact ⟨rfl, by decide⟩
    · exact ⟨rfl, by decide⟩
    · rw [slotAt_of_high hhigh]
      exact ⟨rfl, halign, hrange, by omega⟩

/-- Settles O22: the read replies with the slot's value, each value from its word. -/
theorem controlRegisterReads : Obligations.ControlRegisterReads := by
  intro s off v rest h hcase
  obtain ⟨hv, halign, hrange, hdout⟩ := slotValue_of_controlRead hcase
  rw [step_of_read_ne_dout h halign hrange hdout, hv]

/-! ### STATUS and BUFSTAT (R43, R45) -/

theorem modeTag_toNat (m : Mode) : (modeTag m).toNat = modeNumber m := by
  cases m <;> rfl

theorem dirCode_toNat (d : Direction) : (dirCode d).toNat = directionNumber d := by
  cases d <;> rfl

theorem errCode_toNat (e : Option ErrorKind) : (errCode e).toNat = errorNumber e := by
  cases e with
  | none => rfl
  | some k => cases k <;> rfl

/-- STATUS, field by field: SEG and BLOCKSIZE modulo 32, the tags as they are. -/
theorem statusWord_toNat (s : State) :
    (statusWord s).toNat = errorNumber s.err + 2 ^ 4 * modeNumber s.mode + 2 ^ 8 * directionNumber s.dir +
      2 ^ 16 * (s.blockSize % 2 ^ 5) + 2 ^ 24 * (s.seg % 2 ^ 5) := by
  simp only [statusWord, toNat_append_eq_add, modeTag_toNat, dirCode_toNat, errCode_toNat, BitVec.toNat_ofNat,
    Nat.zero_mod]
  omega

theorem bufstatWord_toNat (s : State) :
    (bufstatWord s).toNat = s.cache.length % 2 ^ 5 + 2 ^ 8 * (s.ks.length % 2 ^ 5) + 2 ^ 16 * (s.fb.length % 2 ^ 5) +
      2 ^ 24 * (s.byteCount % 2 ^ 5) := by
  simp only [bufstatWord, toNat_append_eq_add, BitVec.toNat_ofNat, Nat.zero_mod]
  omega

section
variable {s : State} (h : s.Inv)
include h

/-- A block is at most 16 bytes (R54, R65). -/
theorem blockSize_le_of_inv : s.blockSize ≤ 16 := by
  obtain ⟨-, hbs1, -⟩ := h.ports
  by_cases hmode : s.mode = .none
  · rw [(h.idle hmode).2]
    omega
  · rw [h.session hmode]
    exact hbs1

theorem seg_le_of_inv : s.seg ≤ 16 := by
  by_cases hmode : s.mode = .cfb
  · exact (h.segCfb hmode).2.trans (blockSize_le_of_inv h)
  · rw [h.segElse hmode]
    omega

/-- The hidden buffers and BYTECOUNT fit in their fields of BUFSTAT (R45). -/
theorem buffers_lt_of_inv :
    s.cache.length < 2 ^ 5 ∧ s.ks.length < 2 ^ 5 ∧ s.fb.length < 2 ^ 5 ∧ s.byteCount < 2 ^ 5 := by
  have hsize := blockSize_le_of_inv h
  have hseg := seg_le_of_inv h
  refine ⟨?_, ?_, ?_, ?_⟩
  · cases hmode : s.mode.caches with
    | true => exact (h.cache hmode).trans_le (by omega)
    | false => rw [h.cacheElse hmode]; decide
  · cases hmode : s.mode.streams with
    | true => exact (h.ks hmode).trans_lt (by omega)
    | false => rw [h.ksElse hmode]; decide
  · by_cases hmode : s.mode = .cfb
    · exact (h.fb hmode).trans_lt (by omega)
    · rw [h.fbElse hmode]
      decide
  · cases hmode : s.mode.streams with
    | true => exact (h.byteCount hmode).trans_le (by omega)
    | false => rw [h.byteCountElse hmode]; decide

end

/-- Settles O21: the two words, field by field. -/
theorem statusAndBufstatFields : Obligations.StatusAndBufstatFields := by
  intro s rest
  refine ⟨fun h => ?_, fun h hinv => ?_⟩
  · have herr : errorNumber s.err < 2 ^ 4 := errCode_toNat s.err ▸ (errCode s.err).isLt
    have hmode : modeNumber s.mode < 2 ^ 4 := modeTag_toNat s.mode ▸ (modeTag s.mode).isLt
    have hdir : directionNumber s.dir < 2 ^ 2 := dirCode_toNat s.dir ▸ (dirCode s.dir).isLt
    have hstep := step_of_read_ne_dout h (by decide) (by decide) (by decide)
    have hword := statusWord_toNat s
    refine ⟨statusWord s, hstep, by omega, by omega, by omega, fun hinv => ?_⟩
    have hsize := blockSize_le_of_inv hinv
    have hseg := seg_le_of_inv hinv
    exact ⟨by omega, by omega⟩
  · obtain ⟨hcache, hks, hfb, hcount⟩ := buffers_lt_of_inv hinv
    refine ⟨?_, hcache, hks, hfb, hcount⟩
    have hword : slotValue (slotAt 0x14) s = BitVec.ofNat 32
        (s.cache.length + 2 ^ 8 * s.ks.length + 2 ^ 16 * s.fb.length + 2 ^ 24 * s.byteCount) := by
      apply BitVec.eq_of_toNat_eq
      have hbufstat := bufstatWord_toNat s
      rw [show slotValue (slotAt 0x14) s = bufstatWord s from rfl, BitVec.toNat_ofNat]
      omega
    rw [step_of_read_ne_dout h (by decide) (by decide) (by decide), hword]

/-! ### Writes (R74, R77, R80, R81) -/

/-- Settles O23: the slot of each offset. -/
theorem controlRegisterWrites : Obligations.ControlRegisterWrites := by
  intro s off v rest h
  refine ⟨?_, ?_, ?_, ?_⟩
  · rintro rfl
    exact step_of_plain_write h (by decide) (by decide) (by decide)
  · rintro rfl
    exact step_of_plain_write h (by decide) (by decide) (by decide)
  · rintro rfl
    refine ⟨_, _, _, step_of_plain_write h (by decide) (by decide) (by decide), ?_, ?_, ?_⟩
    · rw [BitVec.extractLsb'_toNat, Nat.shiftRight_zero]
    · rw [BitVec.extractLsb'_toNat, Nat.shiftRight_eq_div_pow]
    · rw [← BitVec.testBit_toNat, Nat.toNat_testBit]
  · have hignored : writeSlot .reserved v { s with host := rest } = { s with host := rest } := rfl
    rintro (hoff | ⟨hhigh, hrange, halign⟩)
    · simp only [List.mem_cons, List.not_mem_nil, or_false] at hoff
      rcases hoff with rfl | rfl | rfl | rfl | rfl | rfl | rfl | rfl | rfl | rfl | rfl
      all_goals exact step_of_plain_write h (by decide) (by decide) (by decide)
    · rw [step_of_plain_write h halign hrange (by omega), slotAt_of_high hhigh, hignored]

theorem setWord_setWord (x : Block) (k : Nat) (v : Word) : setWord (setWord x k v) k v = setWord x k v := by
  apply BitVec.eq_of_getLsbD_eq
  intro i _
  simp only [setWord, BitVec.getLsbD_or, BitVec.getLsbD_and]
  cases (~~~((0xFFFFFFFF#32).setWidth 128 <<< (96 - 32 * k))).getLsbD i <;>
    cases (v.setWidth 128 <<< (96 - 32 * k)).getLsbD i <;> simp

/-- R75: a plain write other than a push, made twice. -/
theorem writeSlot_writeSlot {slot : Slot} (h : slot ≠ .din) (v : Word) (s : State) :
    writeSlot slot v (writeSlot slot v s) = writeSlot slot v s := by
  cases slot
  case din => exact absurd rfl h
  case block r k => cases r <;> simp [writeSlot, hostWriteBlock, readBlock, setWord_setWord]
  all_goals rfl

theorem writeSlot_with_host {slot : Slot} (h : slot ≠ .din) (v : Word) (s : State) (l : List HostEvent) :
    writeSlot slot v { s with host := l } = { writeSlot slot v s with host := l } := by
  cases slot
  case din => exact absurd rfl h
  case block r k => cases r <;> rfl
  all_goals rfl

/-- Settles O24: the second write is the first one again. -/
theorem plainWritesAreIdempotent : Obligations.PlainWritesAreIdempotent := by
  intro s off v rest halign hrange hcmd hdin
  have hslot : slotAt off ≠ .din := slotAt_ne_of_offset rfl hdin
  have hone : step { s with host := .write off v :: rest } =
      .next (writeSlot (slotAt off) v { s with host := rest }) :=
    step_of_plain_write (s := { s with host := .write off v :: rest }) rfl halign hrange hcmd
  have hfirst : step { s with host := .write off v :: .write off v :: rest } =
      .next (writeSlot (slotAt off) v { s with host := .write off v :: rest }) :=
    step_of_plain_write (s := { s with host := .write off v :: .write off v :: rest }) rfl halign hrange hcmd
  have hsecond : step (writeSlot (slotAt off) v { s with host := .write off v :: rest }) =
      .next (writeSlot (slotAt off) v { s with host := rest }) := by
    obtain ⟨hhost, -, -⟩ := writeSlot_keeps_host_side (slotAt off) v { s with host := .write off v :: rest }
    rw [step_of_plain_write hhost halign hrange hcmd, ← writeSlot_with_host hslot, writeSlot_writeSlot hslot]
  refine ⟨writeSlot (slotAt off) v { s with host := rest }, run_succ_of_step hone 0, ?_⟩
  rw [run_succ_of_step hfirst]
  exact run_succ_of_step hsecond 0

/-! ### Words of the block registers (R76, R77, R88) -/

/-- R77: word k is replaced, the other words are left. -/
theorem wordOf_setWord (x : Block) {k j : Nat} (hk : k < 4) (hj : j < 4) (v : Word) :
    wordOf (setWord x k v) j = if j = k then v else wordOf x j := by
  apply BitVec.eq_of_getLsbD_eq
  intro i hi
  have hmask (n : Nat) : (0xFFFFFFFF#32).getLsbD n = decide (n < 32) := by
    rw [show 0xFFFFFFFF#32 = BitVec.allOnes 32 from rfl, BitVec.getLsbD_allOnes]
  split
  case isTrue heq =>
    subst heq
    simp only [wordOf, setWord, BitVec.getLsbD_setWidth, BitVec.getLsbD_ushiftRight, BitVec.getLsbD_or,
      BitVec.getLsbD_and, BitVec.getLsbD_not, BitVec.getLsbD_shiftLeft, hmask, Nat.add_sub_cancel_left]
    simp [hi, show 96 - 32 * j + i < 128 by omega, show i < 128 by omega]
  case isFalse hne =>
    simp only [wordOf, setWord, BitVec.getLsbD_setWidth, BitVec.getLsbD_ushiftRight, BitVec.getLsbD_or,
      BitVec.getLsbD_and, BitVec.getLsbD_not, BitVec.getLsbD_shiftLeft, hmask]
    rcases Nat.lt_or_gt_of_ne hne with hlt | hgt
    · have hbit : ¬ 96 - 32 * j + i - (96 - 32 * k) < 32 := by omega
      simp [hi, show 96 - 32 * j + i < 128 by omega, hbit, BitVec.getLsbD_of_ge v _ (Nat.le_of_not_lt hbit)]
    · simp [hi, show 96 - 32 * j + i < 128 by omega, show 96 - 32 * j + i < 96 - 32 * k by omega]

theorem hostWriteBlock_of_writable {r : BlockReg} (h : r.writable = true) (x : Block) (s : State) :
    hostWriteBlock r x s = withContents r x s := by
  cases r
  case t => cases h
  case gfr => cases h
  case subk1 => cases h
  case subk2 => cases h
  all_goals rfl

theorem hostWriteBlock_of_readOnly {r : BlockReg} (h : r.writable = false) (x : Block) (s : State) :
    hostWriteBlock r x s = s := by
  cases r
  case t => rfl
  case gfr => rfl
  case subk1 => rfl
  case subk2 => rfl
  all_goals cases h

theorem step_of_word_write {s : State} {r : BlockReg} {k : Nat} {v : Word} {rest : List HostEvent} (hk : k < 4)
    (h : s.host = .write (offsetOf r + 4 * k) v :: rest) :
    step s = .next (hostWriteBlock r (setWord (contents r s) k v) { s with host := rest }) := by
  obtain ⟨halign, hrange⟩ := offsetOf_word_accepted r hk
  have hcmd : offsetOf r + 4 * k ≠ 0x08 := by
    have : 0x40 ≤ offsetOf r := by cases r <;> decide
    omega
  rw [step_of_plain_write h halign hrange hcmd, slotAt_offsetOf_word r hk, writeSlot, readBlock_eq_contents,
    contents_with_host]

/-- Settles O20: the write replaces word k of a writable register. -/
theorem blockRegisterWordWrite : Obligations.BlockRegisterWordWrite := by
  intro s r k v rest hk h
  rw [step_of_word_write hk h]
  refine ⟨fun hr => ?_, fun hr => ⟨setWord (contents r s) k v, ?_, fun j hj => wordOf_setWord _ hk hj v⟩⟩
  · rw [hostWriteBlock_of_readOnly (by rcases hr with rfl | rfl | rfl | rfl <;> rfl)]
  · rw [hostWriteBlock_of_writable (by rcases hr with rfl | rfl | rfl | rfl | rfl <;> rfl)]

/-! ### LDBLK and RDBLK (R88, R125) -/

/-- The four bytes of word k. -/
theorem int2be_wordOf (x : Block) {k : Nat} (hk : k < 4) :
    int2be (wordOf x k).toNat 4 = ((blk x 16).drop (4 * k)).take 4 := by
  have hlen : (((blk x 16).drop (4 * k)).take 4).length = 4 := by
    simp
    omega
  have hlt := be2int_lt (((blk x 16).drop (4 * k)).take 4)
  rw [hlen] at hlt
  have hback := int2be_be2int (((blk x 16).drop (4 * k)).take 4)
  rw [hlen] at hback
  rw [wordOf_eq_be2int x hk, BitVec.toNat_ofNat, Nat.mod_eq_of_lt (hlt.trans_le (by norm_num)), hback]

/-- The bytes of the four words, in order, are the register's. -/
theorem flatMap_int2be_wordOf (x : Block) :
    ((List.range 4).map (wordOf x)).flatMap (fun w => int2be w.toNat 4) = blk x 16 := by
  have hword (k : Nat) (hk : k ∈ List.range 4) : int2be (wordOf x k).toNat 4 = ((blk x 16).drop (4 * k)).take 4 :=
    int2be_wordOf x (List.mem_range.mp hk)
  rw [List.flatMap_map, List.flatMap_congr hword, List.flatMap_def, ← chunks_eq_map 4 4, chunks_flatten]
  exact List.take_of_length_le (by simp)

/-- A register is determined by its four words. -/
theorem eq_of_wordOf_eq {x y : Block} (h : ∀ k < 4, wordOf x k = wordOf y k) : x = y := by
  apply eq_of_blk_eq
  rw [← flatMap_int2be_wordOf x, ← flatMap_int2be_wordOf y,
    List.map_congr_left fun k hk => h k (List.mem_range.mp hk)]

/-- Writing the four words of `y` leaves `y`. -/
theorem setWord_all (x y : Block) :
    setWord (setWord (setWord (setWord x 0 (getWord y 0)) 1 (getWord y 1)) 2 (getWord y 2)) 3 (getWord y 3) = y := by
  apply eq_of_wordOf_eq
  intro k hk
  simp only [getWord_eq_wordOf]
  rw [wordOf_setWord _ (by decide) hk, wordOf_setWord _ (by decide) hk, wordOf_setWord _ (by decide) hk,
    wordOf_setWord _ (by decide) hk]
  interval_cases k <;> rfl

/-- The state in which a register holds `x`, accesses wait and words have been returned. -/
def loaded (r : BlockReg) (x : Block) (s : State) (l : List HostEvent) (words : List Word) : State :=
  { withContents r x { s with host := l } with replies := s.replies ++ words }

theorem contents_loaded (r : BlockReg) (x : Block) (s : State) (l : List HostEvent) (words : List Word) :
    contents r (loaded r x s l words) = x := by
  cases r <;> rfl

theorem run_of_word_write {r : BlockReg} (hr : r.writable = true) {k : Nat} (hk : k < 4) (x : Block) (s : State)
    (v : Word) (l : List HostEvent) (n : Nat) :
    Host.Core.run core (n + 1) (loaded r x s (.write (r.base + 4 * k) v :: l) []) =
      Host.Core.run core n (loaded r (setWord x k v) s l []) := by
  have hhost : (loaded r x s (.write (r.base + 4 * k) v :: l) []).host = .write (offsetOf r + 4 * k) v :: l := by
    rw [← base_eq_offsetOf]
    cases r <;> rfl
  have hstep := step_of_word_write hk hhost
  rw [contents_loaded, hostWriteBlock_of_writable hr] at hstep
  have hnext : withContents r (setWord x k v) { loaded r x s (.write (r.base + 4 * k) v :: l) [] with host := l } =
      loaded r (setWord x k v) s l [] := by
    cases r <;> rfl
  rw [hnext] at hstep
  exact run_succ_of_step hstep n

theorem run_of_word_read (r : BlockReg) {k : Nat} (hk : k < 4) (x : Block) (s : State) (l : List HostEvent)
    (words : List Word) (n : Nat) :
    Host.Core.run core (n + 1) (loaded r x s (.read (r.base + 4 * k) :: l) words) =
      Host.Core.run core n (loaded r x s l (words ++ [wordOf x k])) := by
  have hhost : (loaded r x s (.read (r.base + 4 * k) :: l) words).host = .read (offsetOf r + 4 * k) :: l := by
    rw [← base_eq_offsetOf]
    cases r <;> rfl
  obtain ⟨hstep, -⟩ := blockRegisterWordsAreBigEndian _ r k l hk hhost
  have hnext : { loaded r x s (.read (r.base + 4 * k) :: l) words with
        host := l, replies := (loaded r x s (.read (r.base + 4 * k) :: l) words).replies ++ [wordOf x k] } =
      loaded r x s l (words ++ [wordOf x k]) := by
    cases r <;> simp [loaded, withContents]
  rw [contents_loaded, hnext] at hstep
  exact run_succ_of_step hstep n

/-- Settles O25: four writes leave the register with the string, four reads return its words. -/
theorem loadedBlockReadsBack : Obligations.LoadedBlockReadsBack := by
  intro s r b rest hr hb
  let y : Block := ofBytes (b ++ zeros (16 - b.length))
  have hstring : blk y 16 = b ++ List.replicate (16 - b.length) 0 :=
    blk_ofBytes _ (by rw [List.length_append, zeros_length]; omega)
  refine ⟨y, (List.range 4).map (wordOf y), ?_, hstring, (flatMap_int2be_wordOf y).trans hstring⟩
  have hline : { s with host := loadBlockLine r b ++ readBlockLine r ++ rest } =
      loaded r (contents r s) s (.write (r.base + 4 * 0) (getWord y 0) :: .write (r.base + 4 * 1) (getWord y 1) ::
        .write (r.base + 4 * 2) (getWord y 2) :: .write (r.base + 4 * 3) (getWord y 3) ::
        .read (r.base + 4 * 0) :: .read (r.base + 4 * 1) :: .read (r.base + 4 * 2) :: .read (r.base + 4 * 3) :: rest)
        [] := by
    cases r <;> simp [loaded, withContents, contents, loadBlockLine, readBlockLine, List.range_succ, y]
  rw [hline, run_of_word_write hr (by decide), run_of_word_write hr (by decide), run_of_word_write hr (by decide),
    run_of_word_write hr (by decide), setWord_all, run_of_word_read r (by decide), run_of_word_read r (by decide),
    run_of_word_read r (by decide), run_of_word_read r (by decide)]
  rfl

/-! ### Reset and the housekeeping commands (R170, R190 to R193, R370) -/

/-- Settles O29: the reset input is served as the command is. -/
theorem resetClearsTheWholeUnit : Obligations.ResetClearsTheWholeUnit :=
  fun _ => ⟨rfl, fun _ h => step_of_host_cons h⟩

/-- Settles O30: by the meanings of the four commands. -/
theorem housekeepingCommands : Obligations.HousekeepingCommands :=
  fun _ => ⟨rfl, rfl, rfl, rfl⟩

end

end Sys2Proof.Proofs

/-! Family other, the GF unit (R141 to R155): a natural number is read as the polynomial over GF(2) whose
coefficients are its bits. Under this reading XOR is the sum, `clmul` the product and `polyred` the remainder, so the
laws of the unit are those of Mathlib's polynomials. -/

namespace Sys2Proof.Proofs

section
open Sys2Proof Sys2Proof.Machine Sys2Proof.Expected
open Polynomial

/-! ### The number of bits (R141) -/

theorem bitLen_le_iff (p k : Nat) : bitLen p ≤ k ↔ p < 2 ^ k := by
  by_cases hp : p = 0
  · simp [bitLen, hp]
  · rw [bitLen, if_neg hp, Nat.succ_le_iff, Nat.log2_lt hp]

theorem testBit_eq_false_of_bitLen_le {p i : Nat} (h : bitLen p ≤ i) : p.testBit i = false :=
  Nat.testBit_lt_two_pow ((bitLen_le_iff p i).mp h)

theorem bitLen_pos {p : Nat} (h : 1 ≤ p) : 1 ≤ bitLen p := by
  rw [bitLen, if_neg (Nat.ne_of_gt h)]
  exact Nat.le_add_left 1 _

/-- The highest bit is set. -/
theorem testBit_bitLen_sub_one {p : Nat} (h : 1 ≤ p) : p.testBit (bitLen p - 1) = true := by
  have hp : p ≠ 0 := Nat.ne_of_gt h
  rw [bitLen, if_neg hp, Nat.add_sub_cancel, Nat.testBit_eq_decide_div_mod_eq]
  have hlow : 2 ^ p.log2 ≤ p := Nat.log2_self_le hp
  have hhigh : p < 2 ^ p.log2 * 2 := by
    rw [← Nat.pow_succ]
    exact Nat.lt_log2_self
  rw [show p / 2 ^ p.log2 = 1 from Nat.div_eq_of_lt_le (by omega) (by omega)]
  rfl

/-! ### Numbers as polynomials over GF(2) -/

/-- The polynomial whose coefficients are the bits of a number. -/
noncomputable def bitsPoly (n : Nat) : (ZMod 2)[X] :=
  ∑ i ∈ Finset.range (bitLen n), if n.testBit i then X ^ i else 0

theorem bitsPoly_coeff (n k : Nat) : (bitsPoly n).coeff k = if n.testBit k then 1 else 0 := by
  have hterm (i : Nat) : (if n.testBit i then X ^ i else 0 : (ZMod 2)[X]).coeff k =
      if i = k then (if n.testBit k then 1 else 0) else 0 := by
    by_cases hik : i = k
    · subst hik
      by_cases hbit : n.testBit i <;> simp [hbit]
    · by_cases hbit : n.testBit i <;> simp [hbit, coeff_X_pow, hik, Ne.symm hik]
  rw [bitsPoly, finsetSum_coeff]
  simp only [hterm, Finset.sum_ite_eq', Finset.mem_range]
  by_cases hk : k < bitLen n
  · rw [if_pos hk]
  · rw [if_neg hk, testBit_eq_false_of_bitLen_le (Nat.le_of_not_lt hk)]
    rfl

theorem bitsPoly_injective : Function.Injective bitsPoly := by
  intro a b h
  apply Nat.eq_of_testBit_eq
  intro i
  have hcoeff : (bitsPoly a).coeff i = (bitsPoly b).coeff i := by rw [h]
  rw [bitsPoly_coeff, bitsPoly_coeff] at hcoeff
  cases ha : a.testBit i <;> cases hb : b.testBit i <;> simp [ha, hb] at hcoeff ⊢

@[simp] theorem bitsPoly_zero : bitsPoly 0 = 0 := rfl

@[simp] theorem bitsPoly_one : bitsPoly 1 = 1 := by
  ext k
  simp only [bitsPoly_coeff, coeff_one, Nat.testBit_one_eq_true_iff_self_eq_zero]

/-- XOR is the sum. -/
theorem bitsPoly_xor (a b : Nat) : bitsPoly (a ^^^ b) = bitsPoly a + bitsPoly b := by
  ext k
  rw [coeff_add, bitsPoly_coeff, bitsPoly_coeff, bitsPoly_coeff, Nat.testBit_xor]
  cases a.testBit k <;> cases b.testBit k <;> decide

/-- A shift is the product with a power of X. -/
theorem bitsPoly_shiftLeft (a n : Nat) : bitsPoly (a <<< n) = bitsPoly a * X ^ n := by
  ext k
  rw [coeff_mul_X_pow', bitsPoly_coeff, bitsPoly_coeff, Nat.testBit_shiftLeft]
  by_cases h : n ≤ k <;> simp [h]

@[simp] theorem bitsPoly_two : bitsPoly 2 = X := by
  have h := bitsPoly_shiftLeft 1 1
  rwa [bitsPoly_one, one_mul, pow_one] at h

/-- R141: `clmul` is the product. -/
theorem bitsPoly_clmul (a b : Nat) : bitsPoly (clmul a b) = bitsPoly a * bitsPoly b := by
  have hfold (n : Nat) :
      bitsPoly ((List.range n).foldl (fun p i => if b.testBit i then p ^^^ (a <<< i) else p) 0) =
        bitsPoly a * ∑ i ∈ Finset.range n, if b.testBit i then X ^ i else 0 := by
    induction n with
    | zero => simp
    | succ n ih =>
      rw [List.range_succ, List.foldl_append, List.foldl_cons, List.foldl_nil, Finset.sum_range_succ, mul_add, ← ih]
      split
      · rw [bitsPoly_xor, bitsPoly_shiftLeft]
      · rw [mul_zero, add_zero]
  exact hfold (bitLen b)

theorem bitsPoly_degree_lt_iff (p k : Nat) : (bitsPoly p).degree < k ↔ bitLen p ≤ k := by
  rw [degree_lt_iff_coeff_zero, bitLen_le_iff]
  constructor
  · intro h
    apply Nat.lt_pow_two_of_testBit
    intro i hi
    have hcoeff := h i hi
    rw [bitsPoly_coeff] at hcoeff
    by_contra hbit
    rw [Bool.not_eq_false] at hbit
    rw [if_pos hbit] at hcoeff
    exact one_ne_zero hcoeff
  · intro h i hi
    rw [bitsPoly_coeff, testBit_eq_false_of_bitLen_le (((bitLen_le_iff p k).mpr h).trans hi)]
    rfl

theorem bitsPoly_degree {m : Nat} (h : 1 ≤ m) : (bitsPoly m).degree = (bitLen m - 1 : Nat) := by
  apply degree_eq_of_le_of_coeff_ne_zero
  · rw [degree_le_iff_coeff_zero]
    intro i hi
    rw [bitsPoly_coeff, testBit_eq_false_of_bitLen_le (by have := Nat.cast_lt.mp hi; omega)]
    rfl
  · rw [bitsPoly_coeff, testBit_bitLen_sub_one h]
    exact one_ne_zero

theorem bitsPoly_monic {m : Nat} (h : 1 ≤ m) : (bitsPoly m).Monic := by
  rw [Monic, leadingCoeff, natDegree_eq_of_degree_eq_some (bitsPoly_degree h), bitsPoly_coeff,
    testBit_bitLen_sub_one h]
  rfl

/-! ### `polyred` is the remainder (R142) -/

/-- One pass of the loop clears the top bit. -/
theorem bitLen_xor_shift_lt {p m : Nat} (hm : 1 ≤ m) (h : bitLen m ≤ bitLen p) :
    bitLen (p ^^^ (m <<< (bitLen p - bitLen m))) ≤ bitLen p - 1 := by
  have hlen := bitLen_pos hm
  have hp : 1 ≤ p := by
    rcases Nat.eq_zero_or_pos p with rfl | hp
    · exact absurd (hlen.trans h) (by decide)
    · exact hp
  rw [bitLen_le_iff]
  apply Nat.lt_pow_two_of_testBit
  intro i hi
  rw [Nat.testBit_xor, Nat.testBit_shiftLeft]
  rcases Nat.eq_or_lt_of_le hi with rfl | hlt
  · rw [testBit_bitLen_sub_one hp, show bitLen p - 1 - (bitLen p - bitLen m) = bitLen m - 1 by omega,
      testBit_bitLen_sub_one hm, decide_eq_true (by omega)]
    rfl
  · rw [testBit_eq_false_of_bitLen_le (show bitLen p ≤ i by omega),
      testBit_eq_false_of_bitLen_le (show bitLen m ≤ i - (bitLen p - bitLen m) by omega), Bool.and_false]
    rfl

theorem polyredLoop_spec {m : Nat} (hm : 1 ≤ m) (fuel p : Nat) (h : bitLen p ≤ fuel) :
    bitLen (polyredLoop m fuel p) < bitLen m ∧ ∃ q, p = clmul q m ^^^ polyredLoop m fuel p := by
  have hdone (p : Nat) : ∃ q, p = clmul q m ^^^ p := by
    refine ⟨0, bitsPoly_injective ?_⟩
    rw [bitsPoly_xor, bitsPoly_clmul, bitsPoly_zero, zero_mul, zero_add]
  have hlen := bitLen_pos hm
  induction fuel generalizing p with
  | zero => exact ⟨by rw [polyredLoop]; omega, hdone p⟩
  | succ fuel ih =>
    rw [polyredLoop]
    split
    case isFalse hlt => exact ⟨by omega, hdone p⟩
    case isTrue hle =>
      have hpass := bitLen_xor_shift_lt hm hle
      obtain ⟨hlow, q, hq⟩ := ih (p ^^^ (m <<< (bitLen p - bitLen m))) (by omega)
      refine ⟨hlow, q ^^^ (1 <<< (bitLen p - bitLen m)), bitsPoly_injective ?_⟩
      have hsum := congrArg bitsPoly hq
      simp only [bitsPoly_xor, bitsPoly_clmul, bitsPoly_shiftLeft, bitsPoly_one, one_mul] at hsum ⊢
      rw [add_mul, add_right_comm, ← hsum, mul_comm (bitsPoly m), add_assoc, CharTwo.add_self_eq_zero, add_zero]

theorem polyred_spec {m : Nat} (hm : 1 ≤ m) (p : Nat) :
    bitLen (polyred p m) < bitLen m ∧ ∃ q, p = clmul q m ^^^ polyred p m :=
  polyredLoop_spec hm (bitLen p) p le_rfl

/-- A number below the modulus that differs from `p` by a multiple of it is the remainder. -/
theorem modByMonic_of_xor {p q r m : Nat} (hm : 1 ≤ m) (hr : bitLen r < bitLen m) (h : p = clmul q m ^^^ r) :
    bitsPoly p %ₘ bitsPoly m = bitsPoly r := by
  refine (div_modByMonic_unique (bitsPoly q) _ (bitsPoly_monic hm) ⟨?_, ?_⟩).2
  · rw [h, bitsPoly_xor, bitsPoly_clmul, mul_comm, add_comm]
  · rw [bitsPoly_degree hm, bitsPoly_degree_lt_iff]
    omega

theorem bitsPoly_polyred {m : Nat} (hm : 1 ≤ m) (p : Nat) :
    bitsPoly (polyred p m) = bitsPoly p %ₘ bitsPoly m := by
  obtain ⟨hlow, q, hq⟩ := polyred_spec hm p
  exact (modByMonic_of_xor hm hlow hq).symm

/-! ### Multiplication in GF(2^128) (R143, R147) -/

theorem bitLen_p128 : bitLen p128 = 129 := by decide

theorem polyred_p128_lt (p : Nat) : polyred p p128 < 2 ^ 128 := by
  obtain ⟨hlow, -⟩ := polyred_spec (m := p128) (by decide) p
  rw [bitLen_p128] at hlow
  exact (bitLen_le_iff _ _).mp (Nat.le_of_lt_succ hlow)

theorem gf2pow128mul_toNat (a b : Block) :
    (gf2pow128mul a b).toNat = polyred (clmul a.toNat b.toNat) p128 := by
  rw [gf2pow128mul, BitVec.toNat_ofNat, Nat.mod_eq_of_lt (polyred_p128_lt _)]

/-- The product of the field: the remainder of the product of the polynomials. -/
theorem bitsPoly_gf2pow128mul (a b : Block) :
    bitsPoly (gf2pow128mul a b).toNat = bitsPoly a.toNat * bitsPoly b.toNat %ₘ bitsPoly p128 := by
  rw [gf2pow128mul_toNat, bitsPoly_polyred (by decide), bitsPoly_clmul]

theorem block_eq_of_bitsPoly_eq {a b : Block} (h : bitsPoly a.toNat = bitsPoly b.toNat) : a = b :=
  BitVec.eq_of_toNat_eq (bitsPoly_injective h)

/-- An element of the field is reduced. -/
theorem bitsPoly_modByMonic_p128 (a : Block) : bitsPoly a.toNat %ₘ bitsPoly p128 = bitsPoly a.toNat := by
  rw [modByMonic_eq_self_iff (bitsPoly_monic (by decide)), bitsPoly_degree (m := p128) (by decide), bitLen_p128,
    bitsPoly_degree_lt_iff, bitLen_le_iff]
  exact a.isLt

theorem gf2pow128mul_comm (a b : Block) : gf2pow128mul a b = gf2pow128mul b a := by
  apply block_eq_of_bitsPoly_eq
  rw [bitsPoly_gf2pow128mul, bitsPoly_gf2pow128mul, mul_comm]

theorem gf2pow128mul_assoc (a b c : Block) :
    gf2pow128mul (gf2pow128mul a b) c = gf2pow128mul a (gf2pow128mul b c) := by
  apply block_eq_of_bitsPoly_eq
  have hleft : bitsPoly (gf2pow128mul (gf2pow128mul a b) c).toNat =
      bitsPoly a.toNat * bitsPoly b.toNat * bitsPoly c.toNat %ₘ bitsPoly p128 := by
    rw [bitsPoly_gf2pow128mul, bitsPoly_gf2pow128mul, mul_modByMonic (_ * _), bitsPoly_modByMonic_p128]
  have hright : bitsPoly (gf2pow128mul a (gf2pow128mul b c)).toNat =
      bitsPoly a.toNat * (bitsPoly b.toNat * bitsPoly c.toNat) %ₘ bitsPoly p128 := by
    rw [bitsPoly_gf2pow128mul, bitsPoly_gf2pow128mul, mul_modByMonic _ (_ * _), bitsPoly_modByMonic_p128]
  rw [hleft, hright, mul_assoc]

theorem gf2pow128mul_zero (a : Block) : gf2pow128mul a 0 = 0 := by
  apply block_eq_of_bitsPoly_eq
  rw [bitsPoly_gf2pow128mul, show (0 : Block).toNat = 0 from rfl, bitsPoly_zero, mul_zero, zero_modByMonic]

theorem gf2pow128mul_one (a : Block) : gf2pow128mul a 1 = a := by
  apply block_eq_of_bitsPoly_eq
  rw [bitsPoly_gf2pow128mul, show (1 : Block).toNat = 1 from rfl, bitsPoly_one, mul_one, bitsPoly_modByMonic_p128]

theorem gf2pow128mul_xor (a b c : Block) :
    gf2pow128mul a (b ^^^ c) = gf2pow128mul a b ^^^ gf2pow128mul a c := by
  apply block_eq_of_bitsPoly_eq
  rw [BitVec.toNat_xor, bitsPoly_xor, bitsPoly_gf2pow128mul, bitsPoly_gf2pow128mul, bitsPoly_gf2pow128mul,
    BitVec.toNat_xor, bitsPoly_xor, mul_add, add_modByMonic]

/-- Settles O57: the laws of the polynomials modulo the field's modulus. -/
theorem gfMulRingLaws : Obligations.GfMulRingLaws := fun a b c =>
  ⟨gf2pow128mul_comm a b, gf2pow128mul_assoc a b c, gf2pow128mul_zero a, gf2pow128mul_one a, gf2pow128mul_xor a b c⟩

/-- Settles O56: the remainder has at most 128 bits, so nothing is cut off. -/
theorem gfMulIsTheFieldProduct : Obligations.GfMulIsTheFieldProduct := by
  refine ⟨fun s => ⟨_, rfl, gf2pow128mul_toNat s.gfa s.gfb⟩, fun p m hm => ?_⟩
  obtain ⟨hlow, hq⟩ := polyred_spec hm p
  refine ⟨?_, hq⟩
  rw [deg, deg]
  omega

/-! ### Doubling is multiplication by 2 (R144, R145) -/

/-- Below a power of 2, adding it sets its bit. -/
theorem two_pow_add_eq_xor {w x : Nat} (h : x < 2 ^ w) : 2 ^ w + x = 2 ^ w ^^^ x := by
  apply Nat.eq_of_testBit_eq
  intro i
  rw [Nat.testBit_xor, Nat.testBit_two_pow]
  rcases Nat.lt_trichotomy i w with hi | rfl | hi
  · rw [Nat.testBit_two_pow_add_gt hi, decide_eq_false (by omega), Bool.false_xor]
  · rw [Nat.testBit_two_pow_add_eq, Nat.testBit_lt_two_pow h, decide_eq_true rfl]
    rfl
  · have hsum : 2 ^ w + x < 2 ^ (w + 1) := by
      rw [Nat.pow_succ]
      omega
    have hpow : 2 ^ (w + 1) ≤ 2 ^ i := Nat.pow_le_pow_right (by decide) hi
    rw [decide_eq_false (by omega), Bool.false_xor, Nat.testBit_lt_two_pow (hsum.trans_le hpow),
      Nat.testBit_lt_two_pow (by omega)]

/-- Shifting left by one, in the integers: what leaves the word is the top bit. -/
theorem dbl_toNat {w : Nat} (v rb : BitVec w) (hw : 1 ≤ w) :
    v.toNat <<< 1 = (if v.msb then 2 ^ w + rb.toNat else 0) ^^^ (dbl v rb).toNat := by
  have hshift : (v <<< 1).toNat = v.toNat <<< 1 % 2 ^ w := BitVec.toNat_shiftLeft
  have hlt : v.toNat <<< 1 < 2 ^ w * 2 := by
    rw [Nat.shiftLeft_eq, Nat.pow_one]
    exact Nat.mul_lt_mul_of_pos_right v.isLt (by decide)
  have htop : v.msb = decide (2 ^ w ≤ v.toNat <<< 1) := by
    rw [BitVec.msb_eq_decide, Nat.shiftLeft_eq, Nat.pow_one]
    have : 2 ^ w = 2 ^ (w - 1) * 2 := by rw [← Nat.pow_succ, Nat.succ_eq_add_one, Nat.sub_add_cancel hw]
    rw [decide_eq_decide]
    omega
  rw [dbl]
  cases hmsb : v.msb with
  | false =>
    have hfits : v.toNat <<< 1 < 2 ^ w := by simpa [htop] using hmsb
    rw [if_neg (by decide), if_neg (by decide), hshift, Nat.mod_eq_of_lt hfits, Nat.zero_xor]
  | true =>
    have hover : 2 ^ w ≤ v.toNat <<< 1 := by simpa [htop] using hmsb
    have hrest : v.toNat <<< 1 % 2 ^ w = v.toNat <<< 1 - 2 ^ w := by
      rw [Nat.mod_eq_sub_mod hover, Nat.mod_eq_of_lt (by omega)]
    rw [if_pos rfl, if_pos rfl, BitVec.toNat_xor, hshift, two_pow_add_eq_xor rb.isLt,
      Nat.xor_comm (v.toNat <<< 1 % 2 ^ w),
      Nat.xor_assoc, ← Nat.xor_assoc rb.toNat, Nat.xor_self, Nat.zero_xor, hrest, ← two_pow_add_eq_xor (by omega)]
    omega

/-- R145: doubling a w-bit value is multiplying by 2 modulo x^w plus the polynomial of the constant. -/
theorem polyred_clmul_two {w : Nat} (v rb : BitVec w) (hw : 1 ≤ w) :
    polyred (clmul v.toNat 2) (2 ^ w + rb.toNat) = (dbl v rb).toNat := by
  have hm : 1 ≤ 2 ^ w + rb.toNat := (Nat.one_le_two_pow).trans (Nat.le_add_right _ _)
  have hlow : bitLen (dbl v rb).toNat < bitLen (2 ^ w + rb.toNat) := by
    have hshort : bitLen (dbl v rb).toNat ≤ w := (bitLen_le_iff _ _).mpr (dbl v rb).isLt
    have hlong : ¬ bitLen (2 ^ w + rb.toNat) ≤ w := by
      rw [bitLen_le_iff]
      omega
    omega
  apply bitsPoly_injective
  rw [bitsPoly_polyred hm]
  refine modByMonic_of_xor (q := if v.msb then 1 else 0) hm hlow (bitsPoly_injective ?_)
  rw [bitsPoly_clmul, bitsPoly_two]
  have hshift := congrArg bitsPoly (dbl_toNat v rb hw)
  rw [bitsPoly_shiftLeft, pow_one] at hshift
  rw [hshift, bitsPoly_xor, bitsPoly_xor, bitsPoly_clmul]
  cases v.msb <;> simp

theorem xtime128_eq_mul_two (v : Block) : xtime128 v = gf2pow128mul v 2 := by
  apply BitVec.eq_of_toNat_eq
  rw [gf2pow128mul_toNat]
  exact (polyred_clmul_two v 0x87#128 (by decide)).symm

/-- Settles O60: both widths of `polyred_clmul_two`. -/
theorem gfDoublingIsMultiplicationByTwo : Obligations.GfDoublingIsMultiplicationByTwo := by
  intro s
  refine ⟨?_, _, rfl, ?_⟩
  · rw [← xtime128_eq_mul_two]
    rfl
  · have hdbl := polyred_clmul_two (s.gfa.setWidth 64) 0x1B#64 (by decide)
    rw [BitVec.toNat_setWidth] at hdbl
    rw [gf2nMul, if_neg (by decide), BitVec.toNat_setWidth, dbl64,
      Nat.mod_eq_of_lt ((dbl (s.gfa.setWidth 64) 0x1B#64).isLt.trans_le (by decide)), ← hdbl]
    rfl

/-! ### Powers of 2 (R146, R152) -/

theorem gf2pow128powof2_succ (n : Nat) : gf2pow128powof2 (n + 1) = gf2pow128mul (gf2pow128powof2 n) 2 :=
  xtime128_eq_mul_two _

theorem gf2pow128powof2_add (a b : Nat) :
    gf2pow128powof2 (a + b) = gf2pow128mul (gf2pow128powof2 a) (gf2pow128powof2 b) := by
  induction b with
  | zero => exact (gf2pow128mul_one _).symm
  | succ b ih => rw [← Nat.add_assoc, gf2pow128powof2_succ, ih, gf2pow128mul_assoc, gf2pow128powof2_succ]

/-- R146: below 128 nothing leaves the word, and a power is a shift. -/
theorem gf2pow128powof2_of_lt {n : Nat} (h : n < 128) : gf2pow128powof2 n = 1#128 <<< n := by
  induction n with
  | zero => rfl
  | succ n ih =>
    have hmsb : (1#128 <<< n).msb = false := by
      rw [BitVec.msb_eq_getLsbD_last, BitVec.getLsbD_shiftLeft, BitVec.getLsbD_one]
      simp
      omega
    rw [gf2pow128powof2, ih (by omega), xtime128, dbl, hmsb, if_neg (by decide), ← BitVec.shiftLeft_add]

/-- Settles O59: the shift and the law of exponents. -/
theorem powersOfTwoMultiply : Obligations.PowersOfTwoMultiply :=
  ⟨fun _ h => gf2pow128powof2_of_lt h, gf2pow128powof2_add⟩

/-- Squaring and doubling over the k highest bits is the power of the number that they make. -/
theorem powSquareDouble_eq (n : Word) {k : Nat} (hk : k ≤ 32) :
    powSquareDouble n k = gf2pow128powof2 (n.toNat >>> (32 - k)) := by
  induction k with
  | zero => rw [Nat.sub_zero, Nat.shiftRight_eq_div_pow, Nat.div_eq_of_lt n.isLt]; rfl
  | succ k ih =>
    have hbits : n.toNat >>> (32 - (k + 1)) =
        n.toNat >>> (32 - k) + n.toNat >>> (32 - k) + (n.getLsbD (31 - k)).toNat := by
      rw [← BitVec.testBit_toNat, Nat.toNat_testBit, show 32 - k = 31 - k + 1 by omega,
        show 32 - (k + 1) = 31 - k by omega, Nat.shiftRight_succ, Nat.shiftRight_eq_div_pow]
      omega
    have hsquare : gf2pow128mul (powSquareDouble n k) (powSquareDouble n k) =
        gf2pow128powof2 (n.toNat >>> (32 - k) + n.toNat >>> (32 - k)) := by
      rw [ih (by omega), gf2pow128powof2_add]
    rw [powSquareDouble, hsquare, hbits]
    cases n.getLsbD (31 - k) <;> rfl

/-- Settles O58: all 32 bits of the exponent. -/
theorem gfPow2IsRepeatedDoubling : Obligations.GfPow2IsRepeatedDoubling := by
  intro s
  have hpow : gfPow2 s.gfn = gf2pow128powof2 s.gfn.toNat := powSquareDouble_eq s.gfn le_rfl
  rw [← hpow]
  rfl

end

end Sys2Proof.Proofs

/-! Family other, session control and what a step can do (R13, R24 to R30, R64, R171 to R188, R203, R331 to R341).
Every INIT is one function of its mode, every command and every step is inverted once (`exec_cases`, `step_effects`),
and the facts about errors, directions, registers and the history are read off the cases. -/

namespace Sys2Proof.Proofs

section
open Sys2Proof Sys2Proof.Machine Sys2Proof.Expected

/-! ### INIT of every mode (R171, R180) -/

/-- What the INIT of a mode adds to the common effects (R181, R188). -/
def initOwn (i : Instr) (s : State) : State :=
  match i with
  | .initCfb seg => { s with seg := segmentSize seg s.ports.bs1 }
  | .initCmac => deriveSubkeys Config.env s
  | _ => s

theorem exec_init {i : Instr} {m : Mode} {s : State} (hm : initMode i = some m)
    (hwf : wellFormed s.ports.bs1 i = true) : exec i s = .next (initSession m (encode i) (initOwn i) s) := by
  cases i <;> cases hm
  case initCfb seg =>
    have hseg : ¬ s.ports.bs1 < seg.toNat := Nat.not_lt_of_le (by simpa [wellFormed] using hwf)
    exact congrArg _ (if_neg hseg)
  all_goals rfl

theorem startSession_eq_newSession (m : Mode) (s : State) : startSession m s = newSession m s := rfl

theorem exec_init_of_check_passed {i : Instr} {m : Mode} {s : State} (hm : initMode i = some m)
    (hwf : wellFormed s.ports.bs1 i = true) (hcheck : initCheck m s = none) :
    exec i s = .next (initOwn i (newSession m s)) := by
  rw [exec_init hm hwf, initSession, hcheck, checked, startSession_eq_newSession]

theorem exec_init_of_check_failed {i : Instr} {m : Mode} {s : State} {k : ErrorKind} (hm : initMode i = some m)
    (hwf : wellFormed s.ports.bs1 i = true) (herr : s.err = none) (hcheck : initCheck m s = some k) :
    exec i s = .next (failed k (encode i) s) := by
  rw [exec_init hm hwf, initSession, hcheck, checked, latch_eq_ite, if_pos herr]

/-- The checks of a mode that uses the IV (R171, R176). -/
theorem initCheck_of_iv {m : Mode} (hm : m = .cbc ∨ m = .cfb ∨ m = .ofb) (s : State) :
    initCheck m s = if s.ports.keyOk1 = false then some .invalidKeyLength
      else if s.ivLen = 0 then some .missingParameter
      else if s.ivLen.toNat ≠ s.ports.bs1 then some .invalidIVLength
      else none := by
  rcases hm with rfl | rfl | rfl <;> simp [initCheck, needsIv]

theorem initCheck_of_ecb (s : State) :
    initCheck .ecb s = if s.ports.keyOk1 = false then some .invalidKeyLength else none := by
  simp [initCheck, needsIv]

theorem initCheck_of_ctr (s : State) :
    initCheck .ctr s = if s.ports.keyOk1 = false then some .invalidKeyLength
      else if s.ctrSet = false then some .missingParameter else none := by
  simp [initCheck, needsIv]

theorem initCheck_of_xts (s : State) :
    initCheck .xts s = if s.ports.keyOk1 = false then some .invalidKeyLength
      else if s.ports.keyOk2 = false then some .invalidKeyLength
      else if s.ports.keyLen1 ≠ s.ports.keyLen2 then some .missingParameter
      else if s.ports.bs1 ≠ 16 ∨ s.ports.bs2 ≠ 16 then some .unsupportedBlockSize
      else none := by
  simp [initCheck, needsIv]

theorem initCheck_of_cmac (s : State) :
    initCheck .cmac s = if s.ports.keyOk1 = false then some .invalidKeyLength
      else if s.ports.bs1 ≠ 8 ∧ s.ports.bs1 ≠ 16 then some .unsupportedBlockSize
      else none := by
  simp [initCheck, needsIv]

theorem initCheck_eq_none_of_iv {m : Mode} (hm : m = .cbc ∨ m = .cfb ∨ m = .ofb) {s : State}
    (hkey : s.ports.keyOk1 = true) (hpos : 1 ≤ s.ports.bs1) (hlen : s.ivLen.toNat = s.ports.bs1) :
    initCheck m s = none := by
  have hne : s.ivLen ≠ 0 := by
    intro h
    rw [h] at hlen
    exact absurd (hlen ▸ hpos) (by decide)
  rw [initCheck_of_iv hm, hkey, if_neg (by decide), if_neg hne, if_neg (not_not.mpr hlen)]

/-- Settles O31: each mode's checks pass. -/
theorem initStartsASession : Obligations.InitStartsASession := by
  intro s hkey
  have hkey' : ¬ s.ports.keyOk1 = false := by simp [hkey]
  refine ⟨?_, fun hpos hlen => ⟨?_, ?_, fun seg hseg => ?_⟩, fun hctr => ?_, fun hkey2 hkeys hbs1 hbs2 => ?_⟩
  · exact exec_init_of_check_passed (i := .initEcb) rfl rfl (by rw [initCheck_of_ecb, if_neg hkey'])
  · exact exec_init_of_check_passed (i := .initCbc) rfl rfl
      (initCheck_eq_none_of_iv (.inl rfl) hkey hpos hlen)
  · exact exec_init_of_check_passed (i := .initOfb) rfl rfl
      (initCheck_eq_none_of_iv (.inr (.inr rfl)) hkey hpos hlen)
  · have hsize : segmentSize seg s.ports.bs1 = if seg.toNat = 0 then s.ports.bs1 else seg.toNat := by
      simp only [segmentSize, ← BitVec.toNat_inj]
      rfl
    rw [exec_init_of_check_passed (i := .initCfb seg) rfl (by simpa [wellFormed] using hseg)
      (initCheck_eq_none_of_iv (.inr (.inl rfl)) hkey hpos hlen), ← hsize]
    rfl
  · exact exec_init_of_check_passed (i := .initCtr) rfl rfl
      (by rw [initCheck_of_ctr, if_neg hkey', if_neg (by simp [hctr])])
  · exact exec_init_of_check_passed (i := .initXts) rfl rfl
      (by rw [initCheck_of_xts, if_neg hkey', if_neg (by simp [hkey2]), if_neg (not_not.mpr hkeys),
        if_neg (by simp [hbs1, hbs2])])

/-- Settles O33: each failing check is the first one. -/
theorem initReportsTheFirstFailedCheck : Obligations.InitReportsTheFirstFailedCheck := by
  intro s i m hm hwf herr fails p
  have hfail {k : ErrorKind} (hk : initCheck m s = some k) : fails k := exec_init_of_check_failed hm hwf herr hk
  refine ⟨fun hkey => hfail ?_, fun hkey => ?_⟩
  · rw [initCheck]
    exact if_pos (by rw [hkey]; rfl)
  · have hkey' : ¬ s.ports.keyOk1 = false := by simp only [p] at hkey; simp [hkey]
    refine ⟨?_, ?_, ?_, ?_, ?_, ?_, ?_⟩
    · rintro rfl hkey2
      exact hfail (by rw [initCheck_of_xts, if_neg hkey', if_pos hkey2])
    · rintro rfl hkey2 hkeys
      exact hfail (by rw [initCheck_of_xts, if_neg hkey', if_neg (ne_false_of_eq_true hkey2), if_pos hkeys])
    · rintro rfl hkey2 hkeys hsize
      exact hfail (by rw [initCheck_of_xts, if_neg hkey', if_neg (ne_false_of_eq_true hkey2),
        if_neg (not_not.mpr hkeys), if_pos hsize])
    · intro hmode hiv
      exact hfail (by rw [initCheck_of_iv hmode, if_neg hkey', if_pos hiv])
    · intro hmode hiv hlen
      exact hfail (by rw [initCheck_of_iv hmode, if_neg hkey', if_neg hiv, if_pos hlen])
    · rintro rfl hctr
      exact hfail (by rw [initCheck_of_ctr, if_neg hkey', if_pos hctr])
    · rintro rfl h8 h16
      exact hfail (by rw [initCheck_of_cmac, if_neg hkey', if_pos ⟨h8, h16⟩])

/-! ### The subkeys of CMAC (R281, R282) -/

/-- Doubling of a 16-byte block, as an integer. -/
theorem dblBlock_sixteen {b : Bytes} (h : b.length = 16) :
    dblBlock b = int2be (dbl (BitVec.ofNat 128 (be2int b)) 0x87#128).toNat 16 := by
  rw [dblBlock, if_neg (by omega), xtime128]

theorem dblBlock_eight {b : Bytes} (h : b.length = 8) :
    dblBlock b = int2be (dbl (BitVec.ofNat 64 (be2int b)) 0x1B#64).toNat 8 := by
  rw [dblBlock, if_pos h, dbl64]

/-- Reading back the string of a word that it fits. -/
theorem ofNat_be2int_int2be {w n : Nat} (hw : 2 ^ w = 256 ^ n) (v : BitVec w) :
    BitVec.ofNat w (be2int (int2be v.toNat n)) = v := by
  rw [be2int_int2be, Nat.mod_eq_of_lt (hw ▸ v.isLt), BitVec.ofNat_toNat, BitVec.setWidth_eq]

theorem be2int_append_zeros (s : Bytes) (n : Nat) : be2int (s ++ zeros n) = be2int s * 256 ^ n := by
  induction n with
  | zero => simp
  | succ n ih =>
    rw [zeros, List.replicate_succ', ← List.append_assoc, be2int_append_singleton, ← zeros, ih, Nat.pow_succ]
    simp [Nat.mul_assoc]

/-- An 8-byte value, left-aligned in a block register. -/
theorem ofBytes_int2be_eight (v : BitVec 64) : ofBytes (int2be v.toNat 8 ++ zeros 8) = v ++ 0#64 := by
  apply BitVec.eq_of_toNat_eq
  have hv : v.toNat < 2 ^ 64 := v.isLt
  rw [ofBytes, be2int_append_zeros, be2int_int2be, toNat_append_eq_add, BitVec.toNat_ofNat]
  simp only [BitVec.toNat_ofNat, Nat.zero_mod, Nat.add_zero]
  omega

/-- Settles O32: the zero block is called once, and doubled twice. -/
theorem initCmacDerivesTheSubkeys : Obligations.InitCmacDerivesTheSubkeys := by
  intro s hkey
  have hkey' : ¬ s.ports.keyOk1 = false := by simp [hkey]
  refine ⟨fun hsize => ?_, fun hsize => ?_⟩
  · have hcheck : initCheck .cmac s = none := by rw [initCheck_of_cmac, if_neg hkey', if_neg (by omega)]
    have hl : (Config.env.e1 (zeros 16)).length = 16 := by rw [Config.env.e1_length, zeros_length]
    have hlu := dblBlock_sixteen hl
    have hlu2 := dblBlock_sixteen (b := dblBlock (Config.env.e1 (zeros 16))) (by rw [hlu, int2be_length])
    rw [hlu, ofNat_be2int_int2be (by norm_num)] at hlu2
    intro l lu lu2
    have hk1 : ofBytes (dblBlock (Config.env.e1 (zeros 16)) ++ zeros 0) = lu := by
      rw [zeros_zero, List.append_nil, hlu]
      exact ofNat_be2int_int2be (by norm_num) _
    have hk2 : ofBytes (dblBlock (dblBlock (Config.env.e1 (zeros 16))) ++ zeros 0) = lu2 := by
      rw [zeros_zero, List.append_nil, hlu, hlu2]
      exact ofNat_be2int_int2be (by norm_num) _
    rw [exec_init_of_check_passed (i := .initCmac) rfl rfl hcheck, ← hk1, ← hk2]
    simp only [initOwn, deriveSubkeys, callE1, newSession, State.log, hsize]
    rfl
  · have hcheck : initCheck .cmac s = none := by rw [initCheck_of_cmac, if_neg hkey', if_neg (by omega)]
    have hl : (Config.env.e1 (zeros 8)).length = 8 := by rw [Config.env.e1_length, zeros_length]
    have hlu := dblBlock_eight hl
    have hlu2 := dblBlock_eight (b := dblBlock (Config.env.e1 (zeros 8))) (by rw [hlu, int2be_length])
    rw [hlu, ofNat_be2int_int2be (by norm_num)] at hlu2
    intro l lu lu2
    have hk1 : ofBytes (dblBlock (Config.env.e1 (zeros 8)) ++ zeros 8) = lu ++ 0#64 := by
      rw [hlu, ofBytes_int2be_eight]
      rfl
    have hk2 : ofBytes (dblBlock (dblBlock (Config.env.e1 (zeros 8))) ++ zeros 8) = lu2 ++ 0#64 := by
      rw [hlu, hlu2, ofBytes_int2be_eight]
      rfl
    rw [exec_init_of_check_passed (i := .initCmac) rfl rfl hcheck, ← hk1, ← hk2]
    simp only [initOwn, deriveSubkeys, callE1, newSession, State.log, hsize]
    rfl

/-! ### Everything that a command can do -/

theorem initCheck_mayLatch {i : Instr} {m : Mode} {s : State} {k : ErrorKind} (hm : initMode i = some m)
    (h : initCheck m s = some k) : mayLatch i k := by
  have hkind : k = .invalidKeyLength ∨ k = .missingParameter ∨ k = .invalidIVLength ∨ k = .unsupportedBlockSize := by
    unfold initCheck at h
    dsimp only at h
    split_ifs at h <;> cases h <;> simp
  cases i <;> cases hm
  all_goals
    simp only [mayLatch]
    tauto

theorem cryptCheck_mayLatch {d : Direction} {s : State} {k : ErrorKind} (h : cryptCheck d s = some k) :
    mayLatch (cryptInstr d) k := by
  have hkind : k = .inputTooShort ∨ k = .inputTooLong ∨ k = .directionConflict ∨ k = .illegalCommand ∨
      k = .bufferOverflow := by
    unfold cryptCheck at h
    split_ifs at h <;> cases h <;> simp
  cases d <;> exact hkind

theorem exec_finalInstr (p : PadScheme) (s : State) :
    exec (finalInstr p) s = .next (final Config.env p (encode (finalInstr p)) s) := by
  cases p <;> rfl

theorem final_mayLatch (p : PadScheme) {k : ErrorKind} (h : k = .illegalCommand ∨ k = .bufferOverflow) :
    mayLatch (finalInstr p) k := by
  cases p <;> exact h

/-- The effects of a command, its checks passed. -/
inductive Effect (s : State) : Instr → State → Prop
  | init {i : Instr} {m : Mode} (hm : initMode i = some m) (hwf : wellFormed s.ports.bs1 i = true)
      (hcheck : initCheck m s = none) : Effect s i (initOwn i (startSession m s))
  | crypt {d : Direction} (hd : Asked d) (hcheck : cryptCheck d s = none) :
      Effect s (cryptInstr d) (cryptEffect Config.env d s)
  | finalNoOp (p : PadScheme) (hlegal : finalLegal s.mode = true) (hdir : s.dir ≠ .encrypting) :
      Effect s (finalInstr p) s
  | final (p : PadScheme) (hlegal : finalLegal s.mode = true) (hdir : s.dir = .encrypting)
      (hspace : finalSpace p s = none) : Effect s (finalInstr p) (finalEffect Config.env p s)
  | gf {i : Instr} (hi : i = .gfmul ∨ i = .gfpow2 ∨ i = .gfdbl ∨ i = .gfdbl64) (x : Block) :
      Effect s i { s with gfr := x }
  | nop : Effect s .nop s
  | clrerr : Effect s .clrerr (clearError s)
  | reset : Effect s .reset (resetUnit s)
  | flushi : Effect s .flushi { s with ibuf := [] }
  | flusho : Effect s .flusho { s with obuf := [] }

/-- Everything that INIT can do, also a term that no word decodes to. -/
theorem exec_init_cases {i : Instr} {m : Mode} {s s' : State} (hm : initMode i = some m)
    (h : exec i s = .next s') :
    (∃ k, mayLatch i k ∧ s' = latch k (encode i) s) ∨ Effect s i s' := by
  by_cases hwf : wellFormed s.ports.bs1 i = true
  · rw [exec_init hm hwf] at h
    cases h
    rcases initSession_spec m (encode i) (initOwn i) s with ⟨k, hk, hlatch⟩ | ⟨hcheck, hown⟩
    · exact .inl ⟨k, initCheck_mayLatch hm hk, hlatch⟩
    · rw [hown]
      exact .inr (.init hm hwf hcheck)
  · cases i
    case initCfb seg =>
      have hseg : s.ports.bs1 < seg.toNat := by simpa [wellFormed] using hwf
      have hlatch : exec (.initCfb seg) s = .next (latch .illegalCommand (encode (.initCfb seg)) s) :=
        congrArg _ (if_pos hseg)
      rw [hlatch] at h
      cases h
      exact .inl ⟨.illegalCommand, by simp [mayLatch], rfl⟩
    all_goals exact absurd rfl hwf

/-- Everything that a command can do: latch one of its errors, or have its effect. -/
theorem exec_cases {i : Instr} {s s' : State} (h : exec i s = .next s') :
    (∃ k, mayLatch i k ∧ s' = latch k (encode i) s) ∨ Effect s i s' := by
  have hcrypt (d : Direction) (hd : Asked d) (g : exec (cryptInstr d) s = .next s') :
      (∃ k, mayLatch (cryptInstr d) k ∧ s' = latch k (encode (cryptInstr d)) s) ∨ Effect s (cryptInstr d) s' := by
    rw [exec_cryptInstr hd] at g
    cases g
    rcases crypt_spec Config.env d (encode (cryptInstr d)) s with ⟨k, hk, hlatch⟩ | ⟨hcheck, heffect⟩
    · exact .inl ⟨k, cryptCheck_mayLatch hk, hlatch⟩
    · rw [heffect]
      exact .inr (.crypt hd hcheck)
  have hfinal (p : PadScheme) (g : exec (finalInstr p) s = .next s') :
      (∃ k, mayLatch (finalInstr p) k ∧ s' = latch k (encode (finalInstr p)) s) ∨ Effect s (finalInstr p) s' := by
    rw [exec_finalInstr] at g
    cases g
    rcases final_spec Config.env p (encode (finalInstr p)) s with ⟨-, g⟩ | ⟨hlegal, hdir, g⟩ | ⟨-, -, -, g⟩ |
      ⟨hlegal, hdir, hspace, g⟩
    · exact .inl ⟨_, final_mayLatch p (.inl rfl), g⟩
    · rw [g]
      exact .inr (.finalNoOp p hlegal hdir)
    · exact .inl ⟨_, final_mayLatch p (.inr rfl), g⟩
    · rw [g]
      exact .inr (.final p hlegal hdir hspace)
  cases i
  case nop => cases h; exact .inr .nop
  case enc => exact hcrypt .encrypting (.inl rfl) h
  case dec => exact hcrypt .decrypting (.inr rfl) h
  case finalBitPadding => exact hfinal .bitPadding h
  case finalZerosPadding => exact hfinal .zerosPadding h
  case finalPkcs7 => exact hfinal .pkcs7 h
  case finalAnsiX923 => exact hfinal .ansiX923 h
  case finalIso10126 => exact hfinal .iso10126 h
  case flushi => cases h; exact .inr .flushi
  case flusho => cases h; exact .inr .flusho
  case clrerr => cases h; exact .inr .clrerr
  case reset => cases h; exact .inr .reset
  case gfmul => cases h; exact .inr (.gf (by simp) _)
  case gfpow2 => cases h; exact .inr (.gf (by simp) _)
  case gfdbl => cases h; exact .inr (.gf (by simp) _)
  case gfdbl64 => cases h; exact .inr (.gf (by simp) _)
  all_goals exact exec_init_cases rfl h

end

end Sys2Proof.Proofs

/-! Family other, what every step keeps (R24 to R30, R64, R203, R331 to R341): who writes each register, how errors
are latched and cleared, and how the history grows. `UpdatedIn` refines the frame of the updates by the session's
mode; `step_effects` inverts a step once for all of these facts. -/

namespace Sys2Proof.Proofs

section
open Sys2Proof Sys2Proof.Machine Sys2Proof.Expected

/-! ### What an update touches, by mode (R24 to R27, R56 to R59) -/

/-- An event that is a codebook call and no draw. -/
def isCall : Event → Bool
  | .draw _ => false
  | .e1 _ | .d1 _ | .e2 _ => true

/-- What an update in the mode `m` may touch: each running value and buffer in its own modes only, and the history by
calls only. -/
structure UpdatedIn (m : Mode) (s s' : State) : Prop where
  frame : UpdateFrame s s'
  iv : m ≠ .cbc → m ≠ .cfb → m ≠ .ofb → s'.iv = s.iv
  ctr : m ≠ .ctr → s'.ctr = s.ctr
  t : m ≠ .xts → s'.t = s.t
  cache : m.caches = false → s'.cache = s.cache
  calls : ∃ l, s'.events = s.events ++ l ∧ ∀ e ∈ l, isCall e = true

theorem UpdatedIn.refl (m : Mode) (s : State) : UpdatedIn m s s :=
  ⟨.refl s, fun _ _ _ => rfl, fun _ => rfl, fun _ => rfl, fun _ => rfl, [], by simp⟩

theorem UpdatedIn.trans {m : Mode} {s u v : State} (h : UpdatedIn m s u) (g : UpdatedIn m u v) : UpdatedIn m s v := by
  obtain ⟨k, hk, hkc⟩ := h.calls
  obtain ⟨l, hl, hlc⟩ := g.calls
  refine ⟨h.frame.trans g.frame, fun h1 h2 h3 => (g.iv h1 h2 h3).trans (h.iv h1 h2 h3),
    fun h1 => (g.ctr h1).trans (h.ctr h1), fun h1 => (g.t h1).trans (h.t h1),
    fun h1 => (g.cache h1).trans (h.cache h1), k ++ l, by rw [hl, hk, List.append_assoc], ?_⟩
  intro e he
  exact (List.mem_append.mp he).elim (hkc e) (hlc e)

theorem UpdatedIn.log (m : Mode) (s : State) {e : Event} (he : isCall e = true) : UpdatedIn m s (s.log e) :=
  ⟨.log s e, fun _ _ _ => rfl, fun _ => rfl, fun _ => rfl, fun _ => rfl, [e], rfl, by simpa using he⟩

theorem UpdatedIn.callCb1 (m : Mode) (K : Environment) (d : Direction) (x : Bytes) (s : State) :
    UpdatedIn m s (callCb1 K d x s).2 := by
  cases d <;> exact .log m s rfl

section
variable {m : Mode} {s u : State} (h : UpdatedIn m s u)
include h

theorem UpdatedIn.setBuffers (ks fb : Bytes) (n : Nat) :
    UpdatedIn m s { u with ks := ks, fb := fb, byteCount := n } :=
  ⟨h.frame.set _ _ _ _ _ _ _, h.iv, h.ctr, h.t, h.cache, h.calls⟩

theorem UpdatedIn.setIv (hm : m = .cbc ∨ m = .cfb ∨ m = .ofb) (iv : Block) : UpdatedIn m s { u with iv := iv } := by
  refine ⟨h.frame.set _ _ _ _ _ _ _, fun h1 h2 h3 => ?_, h.ctr, h.t, h.cache, h.calls⟩
  exact (hm.elim h1 (Or.rec h2 h3)).elim

theorem UpdatedIn.setCtr (hm : m = .ctr) (ctr : Block) : UpdatedIn m s { u with ctr := ctr } :=
  ⟨h.frame.set _ _ _ _ _ _ _, h.iv, fun h1 => absurd hm h1, h.t, h.cache, h.calls⟩

theorem UpdatedIn.setT (hm : m = .xts) (t : Block) : UpdatedIn m s { u with t := t } :=
  ⟨h.frame.set _ _ _ _ _ _ _, h.iv, h.ctr, fun h1 => absurd hm h1, h.cache, h.calls⟩

theorem UpdatedIn.setCache (hm : m.caches = true) (cache : Bytes) : UpdatedIn m s { u with cache := cache } :=
  ⟨h.frame.set _ _ _ _ _ _ _, h.iv, h.ctr, h.t, fun h1 => absurd hm (by simp [h1]), h.calls⟩

end

theorem UpdatedIn.runList {α : Type} {m : Mode} {f : α → State → Bytes × State}
    (h : ∀ a s, UpdatedIn m s (f a s).2) (l : List α) (s : State) : UpdatedIn m s (runList f l s).2 :=
  runList_keeps f (UpdatedIn m s) (fun a _ hs => hs.trans (h a _)) l s (.refl m s)

theorem cacheUpdate_updatedIn {m : Mode} (hm : m.caches = true) {f : Bytes → State → Bytes × State}
    (h : ∀ a s, UpdatedIn m s (f a s).2) (data : Bytes) (s : State) :
    UpdatedIn m s (cacheUpdate f data s).2 := by
  exact ((UpdatedIn.refl m s).setCache hm _).trans (.runList h _ _)

theorem streamByte_updatedIn {m : Mode} {refill : State → State} (h : ∀ s, UpdatedIn m s (refill s)) (x : Byte)
    (s : State) : UpdatedIn m s (streamByte refill x s).2 := by
  have hr : UpdatedIn m s (refillIfEmpty refill s) := by
    unfold refillIfEmpty
    split
    · exact h s
    · exact .refl m s
  exact hr.setBuffers _ _ _

theorem streamUpdate_updatedIn {m : Mode} {f : Byte → State → Bytes × State} (h : ∀ a s, UpdatedIn m s (f a s).2)
    (data : Bytes) (s : State) : UpdatedIn m s (streamUpdate f data s).2 :=
  (UpdatedIn.runList h data s).setBuffers _ _ _

theorem cfbByte_updatedIn (K : Environment) (d : Direction) (x : Byte) (s : State) :
    UpdatedIn .cfb s (cfbByte K d x s).2 := by
  have hrefill (u : State) : UpdatedIn .cfb u (refillCfb K u) :=
    (UpdatedIn.callCb1 .cfb K .encrypting _ u).setBuffers _ _ _
  have hshift (u : State) : UpdatedIn .cfb u (shiftCfb u) := by
    unfold shiftCfb
    split
    · exact (UpdatedIn.refl _ u).setIv (by simp) _
    · exact .refl _ u
  exact ((streamByte_updatedIn hrefill x s).setBuffers _ _ _).trans (hshift _)

theorem xtsRound_updatedIn (K : Environment) (d : Direction) (x : Bytes) (s : State) :
    UpdatedIn .xts s (xtsRound K d x s).2 :=
  (UpdatedIn.callCb1 .xts K d (xorBytes x (mask s.t)) s).setT rfl _

theorem xtsSteal_updatedIn (K : Environment) (d : Direction) (x1 x2 : Bytes) (s : State) :
    UpdatedIn .xts s (xtsSteal K d x1 x2 s).2 :=
  ((UpdatedIn.callCb1 .xts K d _ s).trans (.callCb1 .xts K d _ _)).setT rfl _

theorem updateXts_updatedIn (K : Environment) (d : Direction) (data : Bytes) (s : State) :
    UpdatedIn .xts s (updateXts K d data s).2 := by
  have hfirst (t : Block) : UpdatedIn .xts s { s.log (.e2 (tweakBlock s)) with t := t } :=
    (UpdatedIn.log .xts s rfl).setT rfl t
  simp only [updateXts]
  split
  · exact (hfirst _).trans (.runList (xtsRound_updatedIn K d) _ _)
  · exact ((hfirst _).trans (.runList (xtsRound_updatedIn K d) _ _)).trans (xtsSteal_updatedIn K d _ _ _)

theorem cmacChain_updatedIn (K : Environment) (l : List Bytes) (x : Bytes) (s : State) :
    UpdatedIn .cmac s (cmacChain K l x s).2 := by
  induction l generalizing x s with
  | nil => exact .refl _ s
  | cons b l ih => exact (UpdatedIn.callCb1 .cmac K .encrypting (xorBytes x b) s).trans (ih _ _)

/-- The refined frame of every update. -/
theorem update_updatedIn (K : Environment) (d : Direction) (data : Bytes) (s : State) :
    UpdatedIn s.mode s (update K d data s).2 := by
  unfold update
  split
  case h_1 hm => rw [hm]; exact .refl _ s
  case h_2 hm => rw [hm]; exact cacheUpdate_updatedIn rfl (.callCb1 _ K d) data s
  case h_3 hm =>
    rw [hm]
    have henc (a : Bytes) (u : State) : UpdatedIn .cbc u (cbcEncryptBlock K a u).2 :=
      (UpdatedIn.callCb1 .cbc K .encrypting _ u).setIv (by simp) _
    have hdec (a : Bytes) (u : State) : UpdatedIn .cbc u (cbcDecryptBlock K a u).2 :=
      (UpdatedIn.callCb1 .cbc K .decrypting a u).setIv (by simp) _
    cases d
    case decrypting => exact cacheUpdate_updatedIn rfl hdec data s
    all_goals exact cacheUpdate_updatedIn rfl henc data s
  case h_4 hm => rw [hm]; exact streamUpdate_updatedIn (cfbByte_updatedIn K d) data s
  case h_5 hm =>
    rw [hm]
    have hrefill (u : State) : UpdatedIn .ofb u (refillOfb K u) :=
      ((UpdatedIn.callCb1 .ofb K .encrypting (blk u.iv u.blockSize) u).setIv (by simp) _).setBuffers _ _ _
    exact streamUpdate_updatedIn (streamByte_updatedIn hrefill) data s
  case h_6 hm =>
    rw [hm]
    have hrefill (u : State) : UpdatedIn .ctr u (refillCtr K u) :=
      (((UpdatedIn.refl .ctr u).setCtr rfl _).trans (.callCb1 .ctr K .encrypting _ _)).setBuffers _ _ _
    exact streamUpdate_updatedIn (streamByte_updatedIn hrefill) data s
  case h_7 hm => rw [hm]; exact updateXts_updatedIn K d data s
  case h_8 hm =>
    rw [hm]
    exact (cmacChain_updatedIn K _ _ s).trans (.callCb1 .cmac K .encrypting _ _)

/-! ### What a command's effect touches -/

/-- What the INIT of a mode adds: SEG, the subkeys, and for CMAC one call. -/
theorem initOwn_frame (i : Instr) (s : State) :
    ∃ seg k1 k2 l, initOwn i s = { s with seg := seg, subk1 := k1, subk2 := k2, events := s.events ++ l } ∧
      (∀ e ∈ l, isCall e = true) ∧ (l ≠ [] → i = .initCmac) := by
  cases i
  case initCfb seg => exact ⟨_, s.subk1, s.subk2, [], by simp [initOwn]; rfl, by simp, by simp⟩
  case initCmac => exact ⟨s.seg, _, _, [.e1 (zeros s.blockSize)], rfl, by simp [isCall], by simp⟩
  all_goals exact ⟨s.seg, s.subk1, s.subk2, [], by simp [initOwn], by simp, by simp⟩

/-- The draws that a stretch of the history records (R64). -/
def drawsIn (l : List Event) : Nat := (l.filter fun e => match e with | .draw _ => true | _ => false).length

theorem drawsIn_append (l k : List Event) : drawsIn (l ++ k) = drawsIn l + drawsIn k := by
  rw [drawsIn, List.filter_append, List.length_append, drawsIn, drawsIn]

theorem drawsIn_of_calls {l : List Event} (h : ∀ e ∈ l, isCall e = true) : drawsIn l = 0 := by
  rw [drawsIn, List.length_eq_zero_iff, List.filter_eq_nil_iff]
  intro e he
  have hcall := h e he
  cases e
  case draw b => cases hcall
  all_goals exact Bool.false_ne_true

theorem drawsIn_map_draw {α : Type} (f : α → Byte) (l : List α) : drawsIn (l.map fun a => .draw (f a)) = l.length := by
  rw [drawsIn, List.filter_eq_self.mpr, List.length_map]
  intro e he
  obtain ⟨a, -, rfl⟩ := List.mem_map.mp he
  rfl

/-- What ENC, DEC and FINAL do to the session: the update of its mode, OBUF, and the draws recorded. -/
structure SessionUpdate (s s' : State) : Prop where
  frame : ∃ iv ctr t cache ks fb n ibuf obuf d dir l, s' =
    { s with iv := iv, ctr := ctr, t := t, cache := cache, ks := ks, fb := fb, byteCount := n, ibuf := ibuf,
             obuf := obuf, draws := s.draws + d, dir := dir, events := s.events ++ l } ∧ d = drawsIn l
  iv : s'.iv ≠ s.iv → s.mode = .cbc ∨ s.mode = .cfb ∨ s.mode = .ofb
  ctr : s'.ctr ≠ s.ctr → s.mode = .ctr
  t : s'.t ≠ s.t → s.mode = .xts

theorem UpdatedIn.exists_frame {m : Mode} {s s' : State} (h : UpdatedIn m s s') :
    ∃ iv ctr t cache ks fb n l, (∀ e ∈ l, isCall e = true) ∧ s' =
      { s with iv := iv, ctr := ctr, t := t, cache := cache, ks := ks, fb := fb, byteCount := n,
               events := s.events ++ l } := by
  obtain ⟨iv, ctr, t, cache, ks, fb, n, l, hframe⟩ := h.frame
  obtain ⟨calls, hcalls, hcall⟩ := h.calls
  have hevents : s'.events = s.events ++ l := by rw [hframe]
  have hl : l = calls := List.append_cancel_left (hevents.symm.trans hcalls)
  exact ⟨iv, ctr, t, cache, ks, fb, n, l, hl ▸ hcall, hframe⟩

/-- The session with its direction and IBUF as a command sets them, and draws made. -/
def started (dir : Direction) (ibuf : Bytes) (l : List Event) (s : State) : State :=
  { s with dir := dir, ibuf := ibuf, draws := s.draws + drawsIn l, events := s.events ++ l }

theorem sessionUpdate_of_feed (d : Direction) (data : Bytes) (dir : Direction) (ibuf : Bytes) (l : List Event)
    (s : State) : SessionUpdate s (feed Config.env d data (started dir ibuf l s)) := by
  have h := update_updatedIn Config.env d data (started dir ibuf l s)
  obtain ⟨iv, ctr, t, cache, ks, fb, n, calls, hcall, hframe⟩ := h.exists_frame
  refine ⟨⟨iv, ctr, t, cache, ks, fb, n, ibuf,
    s.obuf ++ (update Config.env d data (started dir ibuf l s)).1, drawsIn l, dir, l ++ calls, ?_, ?_⟩, ?_, ?_, ?_⟩
  · rw [feed, hframe, started]
    simp only [List.append_assoc]
  · rw [drawsIn_append, drawsIn_of_calls hcall, Nat.add_zero]
  · intro hne
    by_contra hmode
    simp only [not_or] at hmode
    exact hne (h.iv hmode.1 hmode.2.1 hmode.2.2)
  · intro hne
    by_contra hmode
    exact hne (h.ctr hmode)
  · intro hne
    by_contra hmode
    exact hne (h.t hmode)

theorem sessionUpdate_of_crypt (d : Direction) (s : State) : SessionUpdate s (cryptEffect Config.env d s) := by
  have hstart : started d [] [] s = { s with dir := d, ibuf := [] } := by simp [started, drawsIn]
  have h := sessionUpdate_of_feed d s.ibuf d [] [] s
  rwa [hstart] at h

/-- The padder draws, and records each draw (R306). -/
theorem padBytes_state (p : PadScheme) (len bs : Nat) (s : State) :
    ∃ l, (padBytes Config.env p len bs s).2 = { s with draws := s.draws + drawsIn l, events := s.events ++ l } := by
  cases p
  case iso10126 =>
    refine ⟨(List.range (npad len bs - 1)).map fun j => .draw (Config.env.rnd (s.draws + j)), ?_⟩
    rw [drawsIn_map_draw, List.length_range]
    exact congrArg Prod.snd (drawBytes_spec Config.env (npad len bs - 1) s)
  all_goals exact ⟨[], by simp [padBytes, drawsIn]⟩

theorem sessionUpdate_of_final (p : PadScheme) (s : State) : SessionUpdate s (finalEffect Config.env p s) := by
  obtain ⟨l, hl⟩ := padBytes_state p (Machine.finalLength s) s.blockSize s
  rw [finalEffect, hl]
  exact sessionUpdate_of_feed .encrypting _ s.dir s.ibuf l s

/-! ### Everything that a step can do -/

/-- The state once the next access is taken. -/
def taken (s : State) : State := { s with host := s.host.tail }

/-- The effects of a step, the access taken. -/
inductive StepEffect (s : State) : State → Prop
  | idle (h : s.host = []) : StepEffect s (taken s)
  | read {off : Nat} (h : s.host.head? = some (.read off)) (obuf : Bytes) (v : Word)
      (hobuf : obuf = s.obuf ∨ obuf = s.obuf.tail) :
      StepEffect s { taken s with obuf := obuf, replies := s.replies ++ [v] }
  | push {v : Word} (h : s.host.head? = some (.write 0x20 v)) : StepEffect s (pushDin v (taken s))
  | write {off : Nat} {v : Word} (h : s.host.head? = some (.write off v)) (halign : off % 4 = 0)
      (hcmd : off ≠ 0x08) (hdin : off ≠ 0x20) : StepEffect s (writeSlot (slotAt off) v (taken s))
  | resetInput (h : s.host.head? = some .resetInput) : StepEffect s (resetUnit (taken s))
  | blocked {w : Word} (h : Commands s w) (herr : s.err ≠ none) (hclr : w ≠ 0x07#32) (hres : w ≠ 0x08#32) :
      StepEffect s (taken s)
  | reserved {w : Word} (h : Commands s w) (herr : s.err = none) : StepEffect s (failed .illegalCommand w (taken s))
  | command {i : Instr} {s' : State} (h : Commands s (encode i))
      (hfree : s.err = none ∨ i = .clrerr ∨ i = .reset) (hexec : exec i (taken s) = .next s') : StepEffect s s'

theorem taken_of_host_cons {s : State} {e : HostEvent} {rest : List HostEvent} (h : s.host = e :: rest) :
    { s with host := rest } = taken s := by
  rw [taken, h, List.tail_cons]

theorem head_of_host_cons {s : State} {e : HostEvent} {rest : List HostEvent} (h : s.host = e :: rest) :
    s.host.head? = some e := by
  rw [h, List.head?_cons]

/-- The words that an error does not block are those of CLRERR and RESET (R110). -/
theorem free_of_not_blocked {w : Word} {i : Instr} {s : State} (h : blocked w s = false)
    (hdec : decode s.ports.bs1 w = .command i) : s.err = none ∨ i = .clrerr ∨ i = .reset := by
  have hnot : ¬ (s.err ≠ none ∧ w ≠ 0x07#32 ∧ w ≠ 0x08#32) := by
    rw [← blocked_iff, h]
    exact Bool.false_ne_true
  by_cases herr : s.err = none
  · exact .inl herr
  · by_cases hclr : w = 0x07#32
    · subst hclr
      cases hdec
      exact .inr (.inl rfl)
    · by_cases hres : w = 0x08#32
      · subst hres
        cases hdec
        exact .inr (.inr rfl)
      · exact absurd ⟨herr, hclr, hres⟩ hnot

/-- Everything that a step can do. -/
theorem step_effects {s s' : State} (h : step s = .next s') : StepEffect s s' := by
  rcases step_cases h with ⟨hnil, hs⟩ | ⟨rest, ⟨off, hh, -, -, rfl⟩ | ⟨w, hh, hissue⟩ |
    ⟨off, v, hh, halign, -, hcmd, rfl⟩ |
    ⟨hh, rfl⟩⟩
  · have hself : taken s = s := by rw [taken, hnil, List.tail_nil, ← hnil]
    rw [hs, ← hself]
    exact hself.symm ▸ .idle hnil
  · obtain ⟨obuf, v, hread, hobuf⟩ := readSlot_frame (slotAt off) (taken s)
    rw [taken_of_host_cons hh, hread]
    exact .read (head_of_host_cons hh) obuf v hobuf
  · have hcmd : Commands s w := head_of_host_cons hh
    rw [taken_of_host_cons hh] at hissue
    rcases issue_spec w (taken s) with ⟨hblocked, g⟩ | ⟨hfree, i, hdec, g⟩ | ⟨hfree, ⟨r, hdec⟩, g⟩
    · obtain ⟨herr, hclr, hres⟩ := (blocked_iff w _).mp hblocked
      rw [g] at hissue
      cases hissue
      exact .blocked hcmd herr hclr hres
    · rw [g] at hissue
      obtain ⟨hw, -⟩ := encodeOfDecodeIsTheWord _ w i hdec
      exact .command (hw ▸ hcmd) (free_of_not_blocked hfree hdec) hissue
    · rw [g] at hissue
      cases hissue
      by_cases herr : s.err = none
      · rw [latch_eq_ite, if_pos (show (taken s).err = none from herr)]
        exact .reserved hcmd herr
      · have hword : w = 0x07#32 ∨ w = 0x08#32 := by
          by_contra hne
          rw [not_or] at hne
          rw [(blocked_iff w (taken s)).mpr ⟨herr, hne.1, hne.2⟩] at hfree
          exact absurd hfree (by decide)
        rcases hword with rfl | rfl <;> cases hdec
  · rw [taken_of_host_cons hh]
    by_cases hdin : off = 0x20
    · subst hdin
      exact .push (head_of_host_cons hh)
    · exact .write (head_of_host_cons hh) halign hcmd hdin
  · rw [taken_of_host_cons hh]
    exact .resetInput (head_of_host_cons hh)

end

end Sys2Proof.Proofs

/-! Family other, the facts about every step (R24 to R30, R64, R203, R206, R331 to R341), read off the cases of
`step_effects` and of `Effect`. -/

namespace Sys2Proof.Proofs

section
open Sys2Proof Sys2Proof.Machine Sys2Proof.Expected

/-! ### The next access -/

theorem commands_unique {s : State} {v w : Word} (hv : Commands s v) (hw : Commands s w) : v = w := by
  have h := hv.symm.trans hw
  cases h
  rfl

/-- An access that is not a write of CMD is no command. -/
theorem not_commands_of_head {s : State} {e : HostEvent} (h : s.host.head? = some e) (he : ∀ w, e ≠ .write 0x08 w)
    (w : Word) : ¬ Commands s w := by
  intro hw
  have heq := h.symm.trans hw
  exact he w (Option.some.inj heq)

theorem not_resets_of_head {s : State} {e : HostEvent} (h : s.host.head? = some e) (he : ∀ w, e ≠ .write 0x08 w)
    (hr : e ≠ .resetInput) : ¬ Resets s := by
  rintro (hw | hw)
  · exact not_commands_of_head h he _ hw
  · exact hr (Option.some.inj (h.symm.trans hw))

theorem resets_iff_of_commands {s : State} {w : Word} (h : Commands s w) : Resets s ↔ w = 0x08#32 := by
  constructor
  · rintro (hw | hw)
    · exact commands_unique h hw
    · exact absurd (h.symm.trans hw) (by simp)
  · rintro rfl
    exact .inl h

theorem encode_init_opcode {i : Instr} {m : Mode} (h : initMode i = some m) : encode i &&& 0xFF#32 = 0x01#32 := by
  cases i <;> cases h
  case initCfb seg =>
    revert seg
    decide
  all_goals decide

theorem initialises_of_init {s : State} {i : Instr} {m : Mode} (h : Commands s (encode i)) (hm : initMode i = some m) :
    Initialises s :=
  ⟨encode i, h, encode_init_opcode hm⟩

theorem updates_of_crypt {s : State} {d : Direction} (h : Commands s (encode (cryptInstr d))) : Updates s :=
  ⟨_, h, by cases d <;> simp [cryptInstr, encode]⟩

theorem updates_of_final {s : State} {p : PadScheme} (h : Commands s (encode (finalInstr p))) : Updates s :=
  ⟨_, h, .inr (.inr (by cases p <;> decide))⟩

/-! ### Errors (R331 to R341) -/

/-- No effect raises an error, and CLRERR and RESET alone clear one. -/
theorem Effect.err {s s' : State} {i : Instr} (h : Effect s i s') :
    (s'.err = s.err ∧ s'.errcmd = s.errcmd ∧ i ≠ .clrerr ∧ i ≠ .reset) ∨
      ((i = .clrerr ∨ i = .reset) ∧ s'.err = none ∧ s'.errcmd = 0) := by
  cases h with
  | @init _ m hm hwf hcheck =>
    obtain ⟨seg, k1, k2, l, hown, -, -⟩ := initOwn_frame i (startSession m s)
    rw [hown]
    refine .inl ⟨rfl, rfl, ?_, ?_⟩ <;> rintro rfl <;> cases hm
  | @crypt d hd hcheck =>
    obtain ⟨_, _, _, _, _, _, _, _, _, _, _, _, hs, -⟩ := (sessionUpdate_of_crypt d s).frame
    rw [hs]
    exact .inl ⟨rfl, rfl, by cases d <;> decide, by cases d <;> decide⟩
  | finalNoOp p hlegal hdir => exact .inl ⟨rfl, rfl, by cases p <;> decide, by cases p <;> decide⟩
  | final p hlegal hdir hspace =>
    obtain ⟨_, _, _, _, _, _, _, _, _, _, _, _, hs, -⟩ := (sessionUpdate_of_final p s).frame
    rw [hs]
    exact .inl ⟨rfl, rfl, by cases p <;> decide, by cases p <;> decide⟩
  | gf hi x => refine .inl ⟨rfl, rfl, ?_, ?_⟩ <;> rintro rfl <;> simp at hi
  | clrerr => exact .inr ⟨.inl rfl, rfl, rfl⟩
  | reset => exact .inr ⟨.inr rfl, rfl, rfl⟩
  | _ => exact .inl ⟨rfl, rfl, by decide, by decide⟩

theorem writeSlot_err {slot : Slot} (h : slot ≠ .din) (v : Word) (s : State) :
    (writeSlot slot v s).err = s.err ∧ (writeSlot slot v s).errcmd = s.errcmd := by
  obtain ⟨_, _, _, _, _, _, _, _, _, _, hw⟩ := writeSlot_frame h v s
  rw [hw]
  exact ⟨rfl, rfl⟩

/-- Settles O12: an error comes from the latch, and each check knows its kinds. -/
theorem commandsRaiseOnlyTheirErrors : Obligations.CommandsRaiseOnlyTheirErrors := by
  intro i s s' k h hnone hsome
  rcases exec_cases h with ⟨k', hk', rfl⟩ | heffect
  · rw [latch_eq_ite, if_pos hnone] at hsome
    cases hsome
    exact hk'
  · rcases heffect.err with ⟨hkeep, -⟩ | ⟨-, hclear, -⟩
    · rw [hkeep, hnone] at hsome
      cases hsome
    · rw [hclear] at hsome
      cases hsome

/-- Settles O10: an error is latched by a push, a reserved word or a command's check, and each latches only. -/
theorem errorsArePrecise : Obligations.ErrorsArePrecise := by
  intro s s' k h hnone hsome
  have hkept {u : State} (hu : u.err = s.err) (hk : u.err = some k) : False := by
    rw [hu, hnone] at hk
    cases hk
  cases step_effects h with
  | idle => exact (hkept rfl hsome).elim
  | read => exact (hkept rfl hsome).elim
  | @push v hhead =>
    rcases pushDin_spec v (taken s) with ⟨-, hpush⟩ | ⟨-, hpush⟩
    · rw [hpush] at hsome
      exact (hkept rfl hsome).elim
    · rw [latch_eq_ite, if_pos (show (taken s).err = none from hnone)] at hpush
      rw [hpush] at hsome ⊢
      cases hsome
      exact ⟨rfl, .inr ⟨rfl, rfl, v, hhead⟩⟩
  | @write off v hhead halign hcmd hdin =>
    exact (hkept (writeSlot_err (slotAt_ne_of_offset rfl hdin) v (taken s)).1 hsome).elim
  | resetInput => cases hsome
  | blocked => exact (hkept rfl hsome).elim
  | @reserved w hcmd _ =>
    cases hsome
    exact ⟨rfl, .inl hcmd⟩
  | @command i _ hcmd hfree hexec =>
    rcases exec_cases hexec with ⟨k', -, rfl⟩ | heffect
    · rw [latch_eq_ite, if_pos (show (taken s).err = none from hnone)] at hsome ⊢
      cases hsome
      exact ⟨rfl, .inl hcmd⟩
    · rcases heffect.err with ⟨hkeep, -⟩ | ⟨-, hclear, -⟩
      · exact (hkept hkeep hsome).elim
      · rw [hclear] at hsome
        cases hsome

/-- Settles O11: only CLRERR, RESET and the reset input get through to the latch. -/
theorem latchedErrorStays : Obligations.LatchedErrorStays := by
  intro s s' k h hsome
  have hlatched : s.err ≠ none := by simp [hsome]
  have hother {e : HostEvent} {u : State} (hhead : s.host.head? = some e) (he : ∀ w, e ≠ .write 0x08 w)
      (hr : e ≠ .resetInput) (herr : u.err = s.err) (hword : u.errcmd = s.errcmd) :
      u.err = some k ∧ u.errcmd = s.errcmd ∧ ¬ Commands s 0x07#32 ∧ ¬ Resets s :=
    ⟨herr.trans hsome, hword, not_commands_of_head hhead he _, not_resets_of_head hhead he hr⟩
  cases step_effects h with
  | idle hnil => exact .inl ⟨hsome, rfl, by simp [Commands, hnil], by simp [Resets, Commands, hnil]⟩
  | read hhead => exact .inl (hother hhead (by simp) (by simp) rfl rfl)
  | @push v hhead =>
    refine .inl (hother hhead (by simp) (by simp) ?_ ?_)
    all_goals
      rcases pushDin_spec v (taken s) with ⟨-, hpush⟩ | ⟨-, hpush⟩
      · rw [hpush]
        rfl
      · rw [hpush, latch_eq_ite, if_neg (show ¬ (taken s).err = none from hlatched)]
        rfl
  | @write off v hhead halign hcmd hdin =>
    obtain ⟨herr, hword⟩ := writeSlot_err (slotAt_ne_of_offset rfl hdin) v (taken s)
    exact .inl (hother hhead (by simpa using fun h => absurd h hcmd) (by simp) herr hword)
  | resetInput hhead => exact .inr ⟨rfl, rfl, .inr (.inr hhead)⟩
  | @blocked w hcmd _ hclr hres =>
    exact .inl ⟨hsome, rfl, fun h7 => hclr (commands_unique hcmd h7),
      fun hreset => hres ((resets_iff_of_commands hcmd).mp hreset)⟩
  | reserved _ herr => exact absurd herr hlatched
  | @command i _ hcmd hfree hexec =>
    rcases hfree with herr | rfl | rfl
    · exact absurd herr hlatched
    · cases hexec
      exact .inr ⟨rfl, rfl, .inl hcmd⟩
    · cases hexec
      exact .inr ⟨rfl, rfl, .inr (.inl hcmd)⟩

/-! ### The direction (R203, R206) -/

theorem unlocked_of_cryptCheck {d : Direction} {s : State} (h : cryptCheck d s = none) : Unlocked d s := by
  unfold cryptCheck at h
  split_ifs at h
  rename_i hdir _ _ _
  rw [Unlocked]
  tauto

/-- Which effects set the direction. -/
theorem Effect.dir {s s' : State} {i : Instr} (h : Effect s i s') :
    s'.dir = s.dir ∨ (∃ d, Asked d ∧ i = cryptInstr d ∧ Unlocked d s ∧ s'.dir = d ∧ s'.err = s.err) ∨
      (s'.dir = .unset ∧ ((∃ m, initMode i = some m) ∨ i = .reset)) := by
  cases h with
  | @init _ m hm hwf hcheck =>
    obtain ⟨seg, k1, k2, l, hown, -, -⟩ := initOwn_frame i (startSession m s)
    rw [hown]
    exact .inr (.inr ⟨rfl, .inl ⟨m, hm⟩⟩)
  | @crypt d hd hcheck =>
    obtain ⟨_, _, _, _, _, _, _, _, _, herr⟩ := feed_frame Config.env d s.ibuf { s with dir := d, ibuf := [] }
    refine .inr (.inl ⟨d, hd, rfl, unlocked_of_cryptCheck hcheck, ?_, ?_⟩)
    · rw [cryptEffect, herr]
    · rw [cryptEffect, herr]
  | final p hlegal hdir hspace =>
    obtain ⟨_, _, _, _, _, _, _, _, _, _, hs⟩ := finalEffect_frame Config.env p s
    rw [hs]
    exact .inl rfl
  | reset => exact .inr (.inr ⟨rfl, .inr rfl⟩)
  | _ => exact .inl rfl

/-- Settles O13: the commands are inverted by `Effect.dir`, and no other access sets DIR but the reset input. -/
theorem directionChangesByRuleOnly : Obligations.DirectionChangesByRuleOnly := by
  intro s s' h hne
  cases step_effects h with
  | idle => exact absurd rfl hne
  | read => exact absurd rfl hne
  | @push v hhead =>
    refine absurd ?_ hne
    rcases pushDin_spec v (taken s) with ⟨-, hpush⟩ | ⟨-, hpush⟩
    · rw [hpush]
      rfl
    · rw [hpush, latch_dir]
      rfl
  | @write off v hhead halign hcmd hdin =>
    refine absurd ?_ hne
    obtain ⟨_, _, _, _, _, _, _, _, _, _, hw⟩ := writeSlot_frame (slotAt_ne_of_offset rfl hdin) v (taken s)
    rw [hw]
    rfl
  | resetInput hhead => exact .inr (.inr ⟨rfl, .inr (.inr hhead)⟩)
  | blocked => exact absurd rfl hne
  | reserved => exact absurd rfl hne
  | @command i _ hcmd hfree hexec =>
    rcases exec_cases hexec with ⟨k, -, rfl⟩ | heffect
    · exact absurd (latch_dir k _ (taken s)) hne
    · rcases heffect.dir with hkeep | ⟨d, hd, rfl, hlock, hdir, herr⟩ | ⟨hunset, hinit | rfl⟩
      · exact absurd hkeep hne
      · have hnone : s'.err = none := by
          rcases hfree with hnone | hclr | hreset
          · exact herr.trans hnone
          · rcases hd with rfl | rfl <;> cases hclr
          · rcases hd with rfl | rfl <;> cases hreset
        have hwas : s.dir = .unset := hlock.resolve_right fun hsame => hne (hdir.trans hsame.symm)
        rcases hd with rfl | rfl
        · exact .inl ⟨hwas, hdir, hcmd, hnone⟩
        · exact .inr (.inl ⟨hwas, hdir, hcmd, hnone⟩)
      · obtain ⟨m, hm⟩ := hinit
        exact .inr (.inr ⟨hunset, .inl (initialises_of_init hcmd hm)⟩)
      · exact .inr (.inr ⟨hunset, .inr (.inl hcmd)⟩)

/-! ### The history and the draws (R14, R64) -/

/-- What each effect adds to the history. -/
theorem Effect.events {s s' : State} {i : Instr} (h : Effect s i s') :
    ∃ l, s'.events = s.events ++ l ∧ s'.draws = s.draws + drawsIn l ∧
      (l ≠ [] → (∃ d, i = cryptInstr d) ∨ (∃ p, i = finalInstr p) ∨ i = .initCmac) := by
  have hnone {u : State} (hevents : u.events = s.events) (hdraws : u.draws = s.draws) :
      ∃ l, u.events = s.events ++ l ∧ u.draws = s.draws + drawsIn l ∧
        (l ≠ [] → (∃ d, i = cryptInstr d) ∨ (∃ p, i = finalInstr p) ∨ i = .initCmac) :=
    ⟨[], by rw [hevents, List.append_nil], by rw [hdraws]; rfl, fun hl => absurd rfl hl⟩
  cases h with
  | @init _ m hm hwf hcheck =>
    obtain ⟨seg, k1, k2, l, hown, hcalls, hcmac⟩ := initOwn_frame i (startSession m s)
    rw [hown]
    exact ⟨l, rfl, by rw [drawsIn_of_calls hcalls]; rfl, fun hl => .inr (.inr (hcmac hl))⟩
  | @crypt d hd hcheck =>
    obtain ⟨_, _, _, _, _, _, _, _, _, _, _, l, hs, rfl⟩ := (sessionUpdate_of_crypt d s).frame
    rw [hs]
    exact ⟨l, rfl, rfl, fun _ => .inl ⟨d, rfl⟩⟩
  | final p hlegal hdir hspace =>
    obtain ⟨_, _, _, _, _, _, _, _, _, _, _, l, hs, rfl⟩ := (sessionUpdate_of_final p s).frame
    rw [hs]
    exact ⟨l, rfl, rfl, fun _ => .inr (.inl ⟨p, rfl⟩)⟩
  | _ => exact hnone rfl rfl

/-- Settles O15: only the effects of the four commands write to the history. -/
theorem historyOnlyGrows : Obligations.HistoryOnlyGrows := by
  intro s s' h
  have hnone {u : State} (hevents : u.events = s.events) (hdraws : u.draws = s.draws) :
      ∃ l, u.events = s.events ++ l ∧ (l ≠ [] → Updates s ∨ Commands s 0x701#32) ∧ u.draws = s.draws + drawsIn l :=
    ⟨[], by rw [hevents, List.append_nil], fun hl => absurd rfl hl, by rw [hdraws]; rfl⟩
  cases step_effects h with
  | @push v hhead =>
    rcases pushDin_spec v (taken s) with ⟨-, hpush⟩ | ⟨-, hpush⟩ <;> rw [hpush]
    · exact hnone rfl rfl
    · exact hnone (latch_events _ _ _) (latch_draws _ _ _)
  | @write off v hhead halign hcmd hdin =>
    obtain ⟨_, _, _, _, _, _, _, _, _, _, hw⟩ := writeSlot_frame (slotAt_ne_of_offset rfl hdin) v (taken s)
    rw [hw]
    exact hnone rfl rfl
  | @command i _ hcmd hfree hexec =>
    rcases exec_cases hexec with ⟨k, -, rfl⟩ | heffect
    · exact hnone (latch_events _ _ _) (latch_draws _ _ _)
    · obtain ⟨l, hevents, hdraws, hwho⟩ := heffect.events
      refine ⟨l, hevents, fun hl => ?_, hdraws⟩
      rcases hwho hl with ⟨d, rfl⟩ | ⟨p, rfl⟩ | rfl
      · exact .inl (updates_of_crypt hcmd)
      · exact .inl (updates_of_final hcmd)
      · exact .inr hcmd
  | _ => exact hnone rfl rfl

/-! ### The writers of the block registers (R24 to R30) -/

/-- The words of a block register, back from the slot to the offset. -/
theorem offset_of_slotAt_block {off : Nat} {r : BlockReg} {k : Nat} (halign : off % 4 = 0)
    (h : slotAt off = .block r k) : k < 4 ∧ off = offsetOf r + 4 * k := by
  unfold slotAt at h
  split at h
  case h_14 =>
    split at h
    case isFalse => cases h
    case isTrue hrange =>
      obtain ⟨hr, rfl⟩ := Slot.block.inj h
      have hbase : offsetOf r = 16 * (off / 16) := by
        subst hr
        obtain ⟨hlow, hhigh⟩ : 4 ≤ off / 16 ∧ off / 16 ≤ 12 := by omega
        unfold blockRegAt
        interval_cases off / 16 <;> rfl
      omega
  all_goals cases h

/-- A plain write changes a block register only if it is a host write of one of its words. -/
theorem contents_writeSlot {s : State} {off : Nat} {v : Word} (hhead : s.host.head? = some (.write off v))
    (halign : off % 4 = 0) (hdin : off ≠ 0x20) (q : BlockReg)
    (hne : contents q (writeSlot (slotAt off) v (taken s)) ≠ contents q s) : HostWrites s q ∧ q.writable = true := by
  cases hslot : slotAt off
  case block r k =>
    rw [hslot, writeSlot] at hne
    obtain ⟨hk, hoff⟩ := offset_of_slotAt_block halign hslot
    by_cases hq : q = r
    · subst hq
      refine ⟨⟨k, hk, v, hoff ▸ hhead⟩, ?_⟩
      by_contra hro
      rw [Bool.not_eq_true] at hro
      rw [hostWriteBlock_of_readOnly hro] at hne
      exact hne (contents_with_host q s _)
    · rw [← readBlock_eq_contents, readBlock_hostWriteBlock_ne r q _ _ hq, readBlock_eq_contents] at hne
      exact absurd (contents_with_host q s _) hne
  case din => exact absurd (offset_of_slotAt (by rw [hslot]; rfl)) hdin
  all_goals
    rw [hslot] at hne
    exact absurd (by cases q <;> rfl) hne

/-- Which command may change which block register (R24 to R30). -/
def WriterOf (s : State) (i : Instr) : BlockReg → Prop
  | .iv => ((∃ d, i = cryptInstr d) ∨ ∃ p, i = finalInstr p) ∧ (s.mode = .cbc ∨ s.mode = .cfb ∨ s.mode = .ofb)
  | .ctr => ((∃ d, i = cryptInstr d) ∨ ∃ p, i = finalInstr p) ∧ s.mode = .ctr
  | .tweak | .gfa | .gfb => False
  | .t => (∃ m, initMode i = some m) ∨ (((∃ d, i = cryptInstr d) ∨ ∃ p, i = finalInstr p) ∧ s.mode = .xts)
  | .gfr => i = .gfmul ∨ i = .gfpow2 ∨ i = .gfdbl ∨ i = .gfdbl64
  | .subk1 | .subk2 => ∃ m, initMode i = some m

theorem SessionUpdate.contents {s s' : State} {i : Instr} (h : SessionUpdate s s')
    (hi : (∃ d, i = cryptInstr d) ∨ ∃ p, i = finalInstr p) {q : BlockReg} (hne : contents q s' ≠ contents q s) :
    WriterOf s i q := by
  obtain ⟨_, _, _, _, _, _, _, _, _, _, _, _, hs, -⟩ := h.frame
  cases q
  case iv => exact ⟨hi, h.iv hne⟩
  case ctr => exact ⟨hi, h.ctr hne⟩
  case t => exact .inr ⟨hi, h.t hne⟩
  all_goals
    rw [hs] at hne
    exact absurd rfl hne

/-- A block register changes by its own commands only, or by RESET. -/
theorem Effect.contents {s s' : State} {i : Instr} (h : Effect s i s') (hreset : i ≠ .reset) {q : BlockReg}
    (hne : contents q s' ≠ contents q s) : WriterOf s i q := by
  cases h with
  | @init _ m hm hwf hcheck =>
    obtain ⟨seg, k1, k2, l, hown, -, -⟩ := initOwn_frame i (startSession m s)
    rw [hown] at hne
    cases q
    case t => exact .inl ⟨m, hm⟩
    case subk1 => exact ⟨m, hm⟩
    case subk2 => exact ⟨m, hm⟩
    all_goals exact absurd rfl hne
  | @crypt d hd hcheck => exact (sessionUpdate_of_crypt d s).contents (.inl ⟨d, rfl⟩) hne
  | final p hlegal hdir hspace => exact (sessionUpdate_of_final p s).contents (.inr ⟨p, rfl⟩) hne
  | gf hi x =>
    cases q
    case gfr => exact hi
    all_goals exact absurd rfl hne
  | reset => exact absurd rfl hreset
  | _ => exact absurd (by cases q <;> rfl) hne

/-- A step other than a reset changes a block register by a host write of it or by one of its commands. -/
theorem contents_changed {s s' : State} (h : step s = .next s') (hreset : ¬ Resets s) {q : BlockReg}
    (hne : contents q s' ≠ contents q s) :
    (HostWrites s q ∧ q.writable = true) ∨ ∃ i, Commands s (encode i) ∧ WriterOf s i q := by
  have hsame {u : State} (hu : contents q u = contents q s) (hne : contents q u ≠ contents q s) :
      (HostWrites s q ∧ q.writable = true) ∨ ∃ i, Commands s (encode i) ∧ WriterOf s i q := absurd hu hne
  cases step_effects h with
  | @push v hhead =>
    refine absurd ?_ hne
    rcases pushDin_spec v (taken s) with ⟨-, hpush⟩ | ⟨-, hpush⟩ <;> rw [hpush]
    · cases q <;> rfl
    · cases q <;> simp [Expected.contents, taken]
  | @write off v hhead halign hcmd hdin => exact .inl (contents_writeSlot hhead halign hdin q hne)
  | resetInput hhead => exact absurd (.inr hhead) hreset
  | @command i _ hcmd hfree hexec =>
    rcases exec_cases hexec with ⟨k, -, rfl⟩ | heffect
    · exact absurd (by cases q <;> simp [Expected.contents, taken]) hne
    · have hi : i ≠ .reset := by
        rintro rfl
        exact hreset (.inl hcmd)
      have htaken : Expected.contents q (taken s) = Expected.contents q s := contents_with_host q s _
      refine .inr ⟨i, hcmd, ?_⟩
      have hwriter := heffect.contents hi (q := q) (by rwa [htaken])
      cases q <;> exact hwriter
  | _ => exact absurd (by cases q <;> rfl) hne

theorem updates_of_session {s : State} {i : Instr} (h : Commands s (encode i))
    (hi : (∃ d, i = cryptInstr d) ∨ ∃ p, i = finalInstr p) : Updates s := by
  rcases hi with ⟨d, rfl⟩ | ⟨p, rfl⟩
  · exact updates_of_crypt h
  · exact updates_of_final h

/-- Settles O14: register by register, from `contents_changed`. -/
theorem blockRegistersHaveTheirWritersOnly : Obligations.BlockRegistersHaveTheirWritersOnly := by
  intro s s' h hreset
  have hchanged (q : BlockReg) (hne : contents q s' ≠ contents q s) := contents_changed h hreset hne
  refine ⟨fun hne => ?_, fun hne => ?_, fun hne => ?_, fun hne => ?_, fun hne => ?_, fun hne => ?_, fun hne => ?_,
    fun hne => ?_, fun hne => ?_⟩
  · rcases hchanged .iv hne with ⟨hhost, -⟩ | ⟨i, hcmd, hi, hmode⟩
    · exact .inl hhost
    · exact .inr ⟨updates_of_session hcmd hi, hmode⟩
  · rcases hchanged .ctr hne with ⟨hhost, -⟩ | ⟨i, hcmd, hi, hmode⟩
    · exact .inl hhost
    · exact .inr ⟨updates_of_session hcmd hi, hmode⟩
  · rcases hchanged .tweak hne with ⟨hhost, -⟩ | ⟨i, -, hi⟩
    · exact hhost
    · exact hi.elim
  · rcases hchanged .t hne with ⟨-, hro⟩ | ⟨i, hcmd, ⟨m, hm⟩ | ⟨hi, hmode⟩⟩
    · cases hro
    · exact .inl (initialises_of_init hcmd hm)
    · exact .inr ⟨updates_of_session hcmd hi, hmode⟩
  · rcases hchanged .gfa hne with ⟨hhost, -⟩ | ⟨i, -, hi⟩
    · exact hhost
    · exact hi.elim
  · rcases hchanged .gfb hne with ⟨hhost, -⟩ | ⟨i, -, hi⟩
    · exact hhost
    · exact hi.elim
  · rcases hchanged .gfr hne with ⟨-, hro⟩ | ⟨i, hcmd, hi⟩
    · cases hro
    · exact ⟨encode i, hcmd, by rcases hi with rfl | rfl | rfl | rfl <;> simp [encode]⟩
  · rcases hchanged .subk1 hne with ⟨-, hro⟩ | ⟨i, hcmd, m, hm⟩
    · cases hro
    · exact initialises_of_init hcmd hm
  · rcases hchanged .subk2 hne with ⟨-, hro⟩ | ⟨i, hcmd, m, hm⟩
    · cases hro
    · exact initialises_of_init hcmd hm

/-! ### The reset state (R65, R66) -/

/-- Settles O27: no session, empty buffers, no error. -/
theorem resetStateIsLegal : Obligations.ResetStateIsLegal := by
  constructor <;> simp [State.reset, Ports.Legal, Ports.reference, Config.referenceBs1, Mode.caches, Mode.streams]

end

end Sys2Proof.Proofs

/-! Family other, ENC and DEC in the block and stream modes as a whole (R202, R206, R210, R232): the checks in closed
form, and the fragmentation law. The law rests on one fact about the rounds: they neither read nor write the queues,
CACHE and BYTECOUNT (`LeavesAside`), so a run may be cut anywhere. -/

namespace Sys2Proof.Proofs

section
open Sys2Proof Sys2Proof.Machine Sys2Proof.Expected

/-! ### The checks (R202, R206, R336) -/

theorem unlocked_iff (d : Direction) (s : State) : Unlocked d s ↔ ¬ (s.dir ≠ .unset ∧ s.dir ≠ d) := by
  rw [Unlocked]
  tauto

/-- The checks of a session that can take the command, in their order. -/
theorem cryptCheck_of_session {d : Direction} {s : State} (hmode : s.mode ≠ .none)
    (hcmac : ¬ (s.mode = .cmac ∧ d = .decrypting)) :
    cryptCheck d s = if s.dir ≠ .unset ∧ s.dir ≠ d then some .directionConflict
      else if s.mode = .xts ∧ s.ibuf.length < 16 then some .inputTooShort
      else if s.mode = .xts ∧ s.xtsMax.toNat ≤ s.ibuf.length then some .inputTooLong
      else if s.ports.obufCap < s.obuf.length + outlen s.ibuf.length s then some .bufferOverflow
      else none := by
  rw [cryptCheck, if_neg hmode, if_neg hcmac]

/-- When ENC and DEC pass their checks. -/
theorem cryptCheck_eq_none_iff (d : Direction) (s : State) :
    cryptCheck d s = none ↔ s.mode ≠ .none ∧ ¬ (s.mode = .cmac ∧ d = .decrypting) ∧ Unlocked d s ∧
      (s.mode = .xts → 16 ≤ s.ibuf.length ∧ s.ibuf.length < s.xtsMax.toNat) ∧
      Room (outlen s.ibuf.length s) s := by
  by_cases hmode : s.mode = .none
  · simp [cryptCheck, hmode]
  by_cases hcmac : s.mode = .cmac ∧ d = .decrypting
  · simp [cryptCheck, hcmac]
  rw [cryptCheck_of_session hmode hcmac, unlocked_iff, Room]
  split_ifs with hlock hshort hlong hroom
  · simp [hlock]
  · simp [hshort]
  · simp [hlong]
  · simp [Nat.not_le_of_lt hroom]
  · simp only [true_iff]
    exact ⟨hmode, hcmac, hlock, fun hxts => ⟨by simpa [hxts] using hshort, by simpa [hxts] using hlong⟩,
      Nat.le_of_not_lt hroom⟩

theorem exec_crypt_of_check_failed {d : Direction} {s : State} {k : ErrorKind} (hd : Asked d) (herr : s.err = none)
    (hcheck : cryptCheck d s = some k) :
    exec (cryptInstr d) s = .next (failed k (encode (cryptInstr d)) s) := by
  rw [exec_cryptInstr hd, crypt, hcheck, checked, latch_eq_ite, if_pos herr]

theorem exec_crypt_of_check_passed {d : Direction} {s : State} (hd : Asked d) (hcheck : cryptCheck d s = none) :
    exec (cryptInstr d) s = .next (cryptEffect Config.env d s) := by
  rw [exec_cryptInstr hd, crypt, hcheck, checked]

/-- A command that latches no error has passed its checks. -/
theorem cryptCheck_eq_none_of_no_error {d : Direction} {s s' : State} (hd : Asked d) (herr : s.err = none)
    (h : exec (cryptInstr d) s = .next s') (herr' : s'.err = none) : cryptCheck d s = none := by
  cases hcheck : cryptCheck d s with
  | none => rfl
  | some k =>
    rw [exec_crypt_of_check_failed hd herr hcheck] at h
    cases h
    cases herr'

theorem mode_ne_of_caches {m : Mode} (h : m.caches = true) : m ≠ .none ∧ m ≠ .cmac ∧ m ≠ .xts := by
  rcases (caches_iff m).mp h with rfl | rfl <;> decide

theorem mode_ne_of_streams {m : Mode} (h : m.streams = true) : m ≠ .none ∧ m ≠ .cmac ∧ m ≠ .xts := by
  rcases (streams_iff m).mp h with rfl | rfl | rfl <;> decide

/-- Settles O43: each failing check is the first one. -/
theorem cryptReportsTheFirstFailedCheck : Obligations.CryptReportsTheFirstFailedCheck := by
  intro d s hd herr fails n
  have hfail {k : ErrorKind} (hk : cryptCheck d s = some k) : fails k := exec_crypt_of_check_failed hd herr hk
  refine ⟨fun hmode => hfail (if_pos hmode), fun hmode hdec => hfail ?_, fun hmode hcmac => ?_⟩
  · rw [cryptCheck, if_neg (by rw [hmode]; decide), if_pos ⟨hmode, hdec⟩]
  · have hcheck := cryptCheck_of_session hmode hcmac
    refine ⟨fun hlock => hfail ?_, fun hlock => ?_⟩
    · rw [unlocked_iff, not_not] at hlock
      rw [hcheck, if_pos hlock]
    rw [if_neg ((unlocked_iff d s).mp hlock)] at hcheck
    have hfull (hxts : s.mode = .xts → 16 ≤ n ∧ n < s.xtsMax.toNat) (hroom : ¬ Room (outlen n s) s) :
        fails .bufferOverflow := by
      refine hfail ?_
      rw [hcheck, if_neg (fun h => Nat.not_lt_of_le (hxts h.1).1 h.2),
        if_neg (fun h => Nat.not_le_of_lt (hxts h.1).2 h.2),
        if_pos (Nat.lt_of_not_le hroom)]
    refine ⟨fun hxts hshort => hfail (by rw [hcheck, if_pos ⟨hxts, hshort⟩]), fun hxts hlow hlong => hfail ?_,
      fun hxts hlow hhigh hroom => hfull (fun _ => ⟨hlow, hhigh⟩) ?_, fun hm hroom => hfull ?_ ?_,
      fun hm hroom => hfull ?_ ?_, fun hm hroom => hfull ?_ ?_⟩
    · rw [hcheck, if_neg (fun h => Nat.not_lt_of_le hlow h.2), if_pos ⟨hxts, hlong⟩]
    · rwa [outlen, hxts]
    · rw [hm]
      exact fun h => absurd h (by decide)
    · rwa [outlen, hm]
    · exact fun h => absurd h (mode_ne_of_streams hm).2.2
    · rwa [outlen_eq_of_streams hm]
    · exact fun h => absurd h (mode_ne_of_caches hm).2.2
    · rwa [outlen_eq_of_caches hm]

/-! ### What the rounds leave aside -/

/-- The state with its queues, CACHE and BYTECOUNT replaced. -/
def aside (ibuf obuf cache : Bytes) (n : Nat) (s : State) : State :=
  { s with ibuf := ibuf, obuf := obuf, cache := cache, byteCount := n }

/-- A round that neither reads nor writes the queues, CACHE and BYTECOUNT. -/
def LeavesAside {α : Type} (f : α → State → Bytes × State) : Prop :=
  ∀ a i o c n s, f a (aside i o c n s) = ((f a s).1, aside i o c n (f a s).2)

section
variable {α : Type} {f : α → State → Bytes × State} (h : LeavesAside f)
include h

theorem LeavesAside.runList : LeavesAside (runList f) := by
  intro l i o c n s
  induction l generalizing s with
  | nil => rfl
  | cons a l ih => rw [runList_cons, runList_cons, h, ih]

/-- What is left aside is unchanged. -/
theorem LeavesAside.keeps (a : α) (s : State) :
    (f a s).2 = aside s.ibuf s.obuf s.cache s.byteCount (f a s).2 :=
  congrArg Prod.snd (h a s.ibuf s.obuf s.cache s.byteCount s)

end

theorem leavesAside_callCb1 (K : Environment) (d : Direction) : LeavesAside (callCb1 K d) := by
  intro x i o c n s
  cases d <;> rfl

theorem leavesAside_cbcEncryptBlock (K : Environment) : LeavesAside (cbcEncryptBlock K) :=
  fun _ _ _ _ _ _ => rfl

theorem leavesAside_cbcDecryptBlock (K : Environment) : LeavesAside (cbcDecryptBlock K) :=
  fun _ _ _ _ _ _ => rfl

theorem refillIfEmpty_of_nil {s : State} (h : s.ks = []) (refill : State → State) :
    refillIfEmpty refill s = refill s := by
  rw [refillIfEmpty, h]

theorem refillIfEmpty_of_cons {s : State} {y : Byte} {k : Bytes} (h : s.ks = y :: k) (refill : State → State) :
    refillIfEmpty refill s = s := by
  rw [refillIfEmpty, h]

/-- A byte of a stream mode, from its refill. -/
theorem streamByte_aside {refill : State → State}
    (h : ∀ i o c n s, refill (aside i o c n s) = aside i o c n (refill s)) (x : Byte) (i o c : Bytes) (n : Nat)
    (s : State) : streamByte refill x (aside i o c n s) =
      ((streamByte refill x s).1, aside i o c n (streamByte refill x s).2) := by
  have hempty : refillIfEmpty refill (aside i o c n s) = aside i o c n (refillIfEmpty refill s) := by
    cases hks : s.ks with
    | nil => rw [refillIfEmpty_of_nil hks, refillIfEmpty_of_nil (s := aside i o c n s) hks, h]
    | cons y k => rw [refillIfEmpty_of_cons hks, refillIfEmpty_of_cons (s := aside i o c n s) hks]
  simp only [streamByte, hempty]
  rfl

theorem leavesAside_bufferedByte {refill : State → State}
    (h : ∀ i o c n s, refill (aside i o c n s) = aside i o c n (refill s)) : LeavesAside (bufferedByte refill) := by
  intro x i o c n s
  rw [bufferedByte, streamByte_aside h]
  rfl

theorem leavesAside_cfbByte (K : Environment) (d : Direction) : LeavesAside (cfbByte K d) := by
  intro x i o c n s
  have hshift (u : State) : shiftCfb (aside i o c n u) = aside i o c n (shiftCfb u) := by
    cases hks : u.ks <;> simp [shiftCfb, aside, hks]
  simp only [cfbByte, streamByte_aside (refill := refillCfb K) (fun _ _ _ _ _ => rfl)]
  rw [← hshift]
  rfl

/-! ### The updates by their rounds (R210, R232) -/

theorem update_of_caches {m : Mode} (hm : m.caches = true) (d : Direction) :
    ∃ f : Bytes → State → Bytes × State, LeavesAside f ∧ (∀ a u, UpdateFrame u (f a u).2) ∧
      (∀ a u, u.blockSize ≤ 16 → a.length = u.blockSize → (f a u).1.length = u.blockSize) ∧
      ∀ u, u.mode = m → ∀ data, update Config.env d data u = cacheUpdate f data u := by
  rcases (caches_iff m).mp hm with rfl | rfl
  · exact ⟨_, leavesAside_callCb1 Config.env d, .callCb1 Config.env d,
      fun a u _ ha => (callCb1_spec Config.env d a u).1.trans ha, fun u hu data => update_of_ecb hu d data⟩
  · have henc (a : Bytes) (u : State) : UpdateFrame u (cbcEncryptBlock Config.env a u).2 :=
      (UpdateFrame.log u _).set _ _ _ _ _ _ _
    have hdec (a : Bytes) (u : State) : UpdateFrame u (cbcDecryptBlock Config.env a u).2 :=
      (UpdateFrame.log u _).set _ _ _ _ _ _ _
    have hlenEnc (a : Bytes) (u : State) (hu : u.blockSize ≤ 16) (ha : a.length = u.blockSize) :
        (cbcEncryptBlock Config.env a u).1.length = u.blockSize := by
      simp only [cbcEncryptBlock, callE1]
      rw [Config.env.e1_length, xorBytes_length, blk_length_of_le u.iv hu, ha, Nat.min_self]
    have hlenDec (a : Bytes) (u : State) (hu : u.blockSize ≤ 16) (ha : a.length = u.blockSize) :
        (cbcDecryptBlock Config.env a u).1.length = u.blockSize := by
      simp only [cbcDecryptBlock, callD1]
      rw [xorBytes_length, Environment.d1_length, blk_length_of_le u.iv hu, ha, Nat.min_self]
    cases d
    case decrypting =>
      exact ⟨_, leavesAside_cbcDecryptBlock Config.env, hdec, hlenDec,
        fun u hu data => update_of_cbc_decrypting hu data⟩
    all_goals
      exact ⟨_, leavesAside_cbcEncryptBlock Config.env, henc, hlenEnc, fun u hu data => by rw [update, hu]; rfl⟩

theorem update_of_cfb {s : State} (hmode : s.mode = .cfb) (d : Direction) (data : Bytes) :
    update Config.env d data s = streamUpdate (cfbByte Config.env d) data s := by
  rw [update, hmode]
  rfl

theorem update_of_streams {m : Mode} (hm : m.streams = true) (d : Direction) :
    ∃ f : Byte → State → Bytes × State, LeavesAside f ∧ (∀ a u, UpdateFrame u (f a u).2) ∧
      (∀ a u, (f a u).1.length = 1) ∧
      ∀ u, u.mode = m → ∀ data, update Config.env d data u = streamUpdate f data u := by
  rcases (streams_iff m).mp hm with rfl | rfl | rfl
  · exact ⟨_, leavesAside_cfbByte Config.env d, cfbByte_frame Config.env d, fun _ _ => rfl,
      fun u hu data => update_of_cfb hu d data⟩
  · have hframe (a : Byte) (u : State) : UpdateFrame u (bufferedByte (refillOfb Config.env) a u).2 :=
      streamByte_frame _ (fun v => (UpdateFrame.log v _).set _ _ _ _ _ _ _) a u
    exact ⟨_, leavesAside_bufferedByte fun _ _ _ _ _ => rfl, hframe, fun _ _ => rfl,
      fun u hu data => update_of_ofb hu d data⟩
  · have hframe (a : Byte) (u : State) : UpdateFrame u (bufferedByte (refillCtr Config.env) a u).2 :=
      streamByte_frame _ (fun v => ⟨v.iv, v.ctr + 1, v.t, v.cache, _, v.fb, v.byteCount, _, rfl⟩) a u
    exact ⟨_, leavesAside_bufferedByte fun _ _ _ _ _ => rfl, hframe, fun _ _ => rfl,
      fun u hu data => update_of_ctr hu d data⟩

theorem session_of_updateFrame {s s' : State} (h : UpdateFrame s s') :
    s'.mode = s.mode ∧ s'.blockSize = s.blockSize ∧ s'.seg = s.seg := by
  obtain ⟨_, _, _, _, _, _, _, _, rfl⟩ := h
  exact ⟨rfl, rfl, rfl⟩

/-! ### Cutting the input (R212, R216, R238, R241, R246) -/

theorem chunks_append_right {bs n : Nat} {a : Bytes} (h : bs * n ≤ a.length) (b : Bytes) :
    chunks bs n (a ++ b) = chunks bs n a := by
  induction n generalizing a with
  | zero => rfl
  | succ n ih =>
    rw [Nat.mul_succ] at h
    have hfirst : bs ≤ a.length := Nat.le_trans (Nat.le_add_left _ _) h
    rw [chunks, chunks, List.take_append_of_le_length hfirst, List.drop_append_of_le_length hfirst,
      ih (by rw [List.length_drop]; omega)]

/-- The blocks of a buffer that is filled in two parts. -/
theorem blocks_of_append {bs : Nat} (hbs : 1 ≤ bs) (a b : Bytes) :
    let n := a.length / bs
    let rest := a.drop (n * bs)
    (a ++ b).length / bs = n + (rest ++ b).length / bs ∧
      chunks bs ((a ++ b).length / bs) (a ++ b) =
        chunks bs n a ++ chunks bs ((rest ++ b).length / bs) (rest ++ b) ∧
      (a ++ b).drop ((a ++ b).length / bs * bs) = (rest ++ b).drop ((rest ++ b).length / bs * bs) := by
  intro n rest
  have hfits : n * bs ≤ a.length := Nat.div_mul_le_self a.length bs
  have hrest : (a ++ b).drop (n * bs) = rest ++ b := List.drop_append_of_le_length hfits
  have hcount : (a ++ b).length / bs = n + (rest ++ b).length / bs := by
    have hlen : (a ++ b).length = (rest ++ b).length + bs * n := by
      rw [List.length_append, List.length_append, List.length_drop, Nat.mul_comm bs]
      omega
    rw [hlen, Nat.add_mul_div_left _ _ hbs, Nat.add_comm]
  refine ⟨hcount, ?_, ?_⟩
  · rw [hcount, chunks_add, chunks_append_right (by rw [Nat.mul_comm]; exact hfits), Nat.mul_comm bs, hrest]
  · rw [hcount, Nat.add_mul, ← List.drop_drop, hrest]

theorem feed_of_caches {d : Direction} {s : State} {f : Bytes → State → Bytes × State}
    (hupdate : ∀ u, u.mode = s.mode → ∀ data, update Config.env d data u = cacheUpdate f data u)
    (hf : LeavesAside f) (data : Bytes) :
    let buf := s.cache ++ data
    let n := buf.length / s.blockSize
    let r := runList f (chunks s.blockSize n buf) s
    feed Config.env d data s =
      aside s.ibuf (s.obuf ++ r.1) (buf.drop (n * s.blockSize)) s.byteCount r.2 := by
  intro buf n r
  have hcut : runList f (chunks s.blockSize n buf) { s with cache := buf.drop (n * s.blockSize) } =
      (r.1, aside s.ibuf s.obuf (buf.drop (n * s.blockSize)) s.byteCount r.2) :=
    hf.runList _ s.ibuf s.obuf _ s.byteCount s
  rw [feed, hupdate s rfl, cacheUpdate, hcut]
  rfl

theorem feed_of_streams {d : Direction} {s : State} {f : Byte → State → Bytes × State}
    (hupdate : ∀ u, u.mode = s.mode → ∀ data, update Config.env d data u = streamUpdate f data u)
    (hf : LeavesAside f) (hframe : ∀ a u, UpdateFrame u (f a u).2) (data : Bytes) :
    let r := runList f data s
    feed Config.env d data s =
      aside s.ibuf (s.obuf ++ r.1) s.cache ((s.byteCount + data.length) % s.blockSize) r.2 := by
  intro r
  have hkeep : r.2 = aside s.ibuf s.obuf s.cache s.byteCount r.2 := hf.runList.keeps data s
  have hsize : r.2.blockSize = s.blockSize := (session_of_updateFrame (.runList f hframe data s)).2.1
  have hcount : r.2.byteCount = s.byteCount := by rw [hkeep]; rfl
  have hobuf : r.2.obuf = s.obuf := by rw [hkeep]; rfl
  have hibuf : r.2.ibuf = s.ibuf := by rw [hkeep]; rfl
  have hcache : r.2.cache = s.cache := by rw [hkeep]; rfl
  rw [feed, hupdate s rfl, streamUpdate, aside, ← hibuf, ← hcache, ← hobuf, ← hcount, ← hsize]

/-- Feeding two pieces of data in turn is feeding them at once. -/
theorem feed_feed {d : Direction} {s : State} (hmode : s.mode.caches = true ∨ s.mode.streams = true)
    (hsize : 1 ≤ s.blockSize) (xs ys : Bytes) :
    feed Config.env d ys (feed Config.env d xs s) = feed Config.env d (xs ++ ys) s := by
  have hfed : ∀ data, (feed Config.env d data s).mode = s.mode ∧
      (feed Config.env d data s).blockSize = s.blockSize := by
    intro data
    obtain ⟨_, _, _, _, _, _, _, _, _, h⟩ := feed_frame Config.env d data s
    rw [h]
    exact ⟨rfl, rfl⟩
  obtain ⟨hmode1, hsize1⟩ := hfed xs
  rcases hmode with hm | hm
  · obtain ⟨f, hf, -, -, hupdate⟩ := update_of_caches hm d
    have hone := feed_of_caches hupdate hf xs
    have htwo := feed_of_caches (s := feed Config.env d xs s) (fun u hu => hupdate u (hu.trans hmode1)) hf ys
    have hall := feed_of_caches hupdate hf (xs ++ ys)
    obtain ⟨hcount, hblocks, hrest⟩ := blocks_of_append hsize (s.cache ++ xs) ys
    rw [List.append_assoc] at hcount hblocks hrest
    simp only [hsize1] at htwo
    rw [htwo, hall, hblocks, hrest, runList_append]
    simp only [hone]
    rw [hf.runList]
    simp [aside]
  · obtain ⟨f, hf, hframe, -, hupdate⟩ := update_of_streams hm d
    have hone := feed_of_streams hupdate hf hframe xs
    have htwo := feed_of_streams (s := feed Config.env d xs s) (fun u hu => hupdate u (hu.trans hmode1)) hf hframe ys
    have hall := feed_of_streams hupdate hf hframe (xs ++ ys)
    simp only [hsize1] at htwo
    rw [htwo, hall, runList_append]
    simp only [hone]
    rw [hf.runList]
    simp [aside, Nat.add_assoc]

/-! ### How many bytes are appended (R204) -/

/-- A round that yields `n` bytes for every item of the list. -/
theorem runList_length_of_rounds {α : Type} {f : α → State → Bytes × State} {P : State → Prop} {n : Nat} {l : List α}
    (h : ∀ a ∈ l, ∀ u, P u → P (f a u).2 ∧ (f a u).1.length = n) {s : State} (hs : P s) :
    (runList f l s).1.length = n * l.length := by
  induction l generalizing s with
  | nil => rfl
  | cons a l ih =>
    obtain ⟨hp, hlen⟩ := h a List.mem_cons_self s hs
    rw [runList_cons, List.length_append, hlen, ih (fun b hb => h b (List.mem_cons_of_mem a hb)) hp, List.length_cons,
      Nat.mul_succ, Nat.add_comm]

theorem length_of_mem_chunks {bs n : Nat} {buf b : Bytes} (hfits : bs * n ≤ buf.length) (hb : b ∈ chunks bs n buf) :
    b.length = bs := by
  induction n generalizing buf with
  | zero => cases hb
  | succ n ih =>
    rw [Nat.mul_succ] at hfits
    rcases List.mem_cons.mp hb with rfl | hrest
    · rw [List.length_take]
      omega
    · exact ih (by rw [List.length_drop]; omega) hrest

theorem feed_obuf_of_streams {d : Direction} {s : State} (hmode : s.mode.streams = true) (data : Bytes) :
    ∃ out, (feed Config.env d data s).obuf = s.obuf ++ out ∧ out.length = data.length := by
  obtain ⟨f, hf, hframe, hlen, hupdate⟩ := update_of_streams hmode d
  refine ⟨(runList f data s).1, by rw [feed_of_streams hupdate hf hframe]; rfl, ?_⟩
  rw [runList_output_length f (fun _ => True) 1 (fun a u _ => ⟨trivial, hlen a u⟩) data s trivial, Nat.one_mul]

theorem feed_obuf_of_caches {d : Direction} {s : State} (hmode : s.mode.caches = true) (hsize : s.blockSize ≤ 16)
    (data : Bytes) : ∃ out, (feed Config.env d data s).obuf = s.obuf ++ out ∧
      out.length = s.blockSize * ((s.cache ++ data).length / s.blockSize) := by
  obtain ⟨f, hf, hframe, hlen, hupdate⟩ := update_of_caches hmode d
  refine ⟨_, by rw [feed_of_caches hupdate hf]; rfl, ?_⟩
  rw [runList_length_of_rounds (P := fun u => u.blockSize = s.blockSize) (n := s.blockSize) _ rfl, chunks_length]
  intro b hb u hu
  have hblock := length_of_mem_chunks (Nat.mul_div_le (s.cache ++ data).length s.blockSize) hb
  refine ⟨(session_of_updateFrame (hframe b u)).2.1.trans hu, ?_⟩
  rw [hlen b u (by omega) (by omega), hu]

/-- Everything that a feed leaves of the bytes it had: what stays in CACHE is what makes no block. -/
theorem feed_cache_of_caches {d : Direction} {s : State} (hmode : s.mode.caches = true) (data : Bytes) :
    (feed Config.env d data s).cache =
      (s.cache ++ data).drop ((s.cache ++ data).length / s.blockSize * s.blockSize) := by
  obtain ⟨f, hf, -, -, hupdate⟩ := update_of_caches hmode d
  rw [feed_of_caches hupdate hf]
  rfl

/-! ### ENC and DEC of one input (R202, R207) -/

/-- The session that an ENC or DEC feeds: the direction set, IBUF taken. -/
def opened (d : Direction) (s : State) : State := { s with dir := d, ibuf := [] }

theorem cryptEffect_eq_feed (d : Direction) (s : State) :
    cryptEffect Config.env d s = feed Config.env d s.ibuf (opened d s) := rfl

/-- The one thing that a command's checks need of the session is room. -/
theorem cryptCheck_eq_none_of_session {d : Direction} {s : State}
    (hmode : s.mode.caches = true ∨ s.mode.streams = true) (hlock : Unlocked d s)
    (hroom : Room (outlen s.ibuf.length s) s) : cryptCheck d s = none := by
  obtain ⟨hnone, hcmac, hxts⟩ := hmode.elim mode_ne_of_caches mode_ne_of_streams
  exact (cryptCheck_eq_none_iff d s).mpr ⟨hnone, fun h => hcmac h.1, hlock, fun h => absurd h hxts, hroom⟩

theorem blockSize_pos_of_inv {s : State} (h : s.Inv) (hmode : s.mode ≠ .none) : 1 ≤ s.blockSize := by
  rw [h.session hmode]
  exact h.ports.1

/-- Feeding nothing changes nothing in a legal session. -/
theorem feed_nil {d : Direction} {s : State} (hmode : s.mode.caches = true ∨ s.mode.streams = true)
    (hcache : s.mode.caches = true → s.cache.length < s.blockSize)
    (hcount : s.mode.streams = true → s.byteCount < s.blockSize) : feed Config.env d [] s = s := by
  rcases hmode with hm | hm
  · obtain ⟨f, hf, -, -, hupdate⟩ := update_of_caches hm d
    rw [feed_of_caches hupdate hf, List.append_nil, Nat.div_eq_of_lt (hcache hm)]
    simp [aside]
  · obtain ⟨f, hf, hframe, -, hupdate⟩ := update_of_streams hm d
    rw [feed_of_streams hupdate hf hframe]
    simp [aside, Nat.mod_eq_of_lt (hcount hm)]

/-- Settles O46: the checks pass, and the update is fed nothing. -/
theorem emptyInputOnlySetsTheDirection : Obligations.EmptyInputOnlySetsTheDirection := by
  intro d s hd hinv hmode hlock hempty
  have hout : outlen s.ibuf.length s = 0 := by
    rcases hmode with hm | hm
    · rw [outlen_eq_of_caches hm, blockCount, cached, hempty, List.append_nil, Nat.div_eq_of_lt (hinv.cache hm),
        Nat.mul_zero]
    · rw [outlen_eq_of_streams hm, hempty, List.length_nil]
  have hroom : Room (outlen s.ibuf.length s) s := by
    rw [hout]
    exact hinv.obuf
  rw [exec_crypt_of_check_passed hd (cryptCheck_eq_none_of_session hmode hlock hroom), cryptEffect_eq_feed, hempty,
    feed_nil (s := opened d s) hmode hinv.cache hinv.byteCount, opened, ← hempty]

/-- How a feed leaves the session, the queues apart. -/
theorem feed_keeps (d : Direction) (data : Bytes) (s : State) :
    (feed Config.env d data s).mode = s.mode ∧ (feed Config.env d data s).blockSize = s.blockSize ∧
      (feed Config.env d data s).dir = s.dir ∧ (feed Config.env d data s).ibuf = s.ibuf ∧
      (feed Config.env d data s).ports = s.ports := by
  obtain ⟨_, _, _, _, _, _, _, _, _, h⟩ := feed_frame Config.env d data s
  rw [h]
  exact ⟨rfl, rfl, rfl, rfl, rfl⟩

/-- Room for both pieces is room for the second one, once the first is fed. -/
theorem room_after_feed {d : Direction} {s : State} {xs ys : Bytes} (hle : s.blockSize ≤ 16)
    (hroom : (s.mode.caches = true ∧ Room (s.cache.length + xs.length + ys.length) s) ∨
      (s.mode.streams = true ∧ Room (xs.length + ys.length) s)) :
    Room (outlen ys.length (feed Config.env d xs s)) (feed Config.env d xs s) := by
  obtain ⟨hmode, hblock, -, -, hports⟩ := feed_keeps d xs s
  rcases hroom with ⟨hm, hroom⟩ | ⟨hm, hroom⟩
  · obtain ⟨out, hout, hlen⟩ := feed_obuf_of_caches (d := d) hm hle xs
    have hcache : (feed Config.env d xs s).cache.length + out.length = s.cache.length + xs.length := by
      have hcut := Nat.mul_div_le (s.cache ++ xs).length s.blockSize
      rw [feed_cache_of_caches hm, List.length_drop, hlen, Nat.mul_comm _ s.blockSize, Nat.sub_add_cancel hcut,
        List.length_append]
    have houtlen : outlen ys.length (feed Config.env d xs s) ≤ (feed Config.env d xs s).cache.length + ys.length := by
      rw [outlen, hmode]
      rcases (caches_iff s.mode).mp hm with h | h <;> rw [h] <;> exact Nat.mul_div_le _ _
    rw [Room] at hroom ⊢
    rw [hports, hout, List.length_append]
    omega
  · obtain ⟨out, hout, hlen⟩ := feed_obuf_of_streams (d := d) hm xs
    rw [Room] at hroom ⊢
    rw [outlen_eq_of_streams (by rw [hmode]; exact hm), hports, hout, List.length_append, hlen]
    omega

/-- Room for a piece of the data that there is room for. -/
theorem room_of_data {s : State} {n : Nat} (hroom : (s.mode.caches = true ∧ Room (s.cache.length + n) s) ∨
    (s.mode.streams = true ∧ Room n s)) : Room (outlen n s) s := by
  rcases hroom with ⟨hm, hroom⟩ | ⟨hm, hroom⟩
  · have houtlen : outlen n s ≤ s.cache.length + n := by
      rw [outlen]
      rcases (caches_iff s.mode).mp hm with h | h <;> rw [h] <;> exact Nat.mul_div_le _ _
    rw [Room] at hroom ⊢
    omega
  · rwa [outlen_eq_of_streams hm]

/-- ENC or DEC over the given input. -/
theorem exec_crypt_with_input {d : Direction} {s : State} (hd : Asked d)
    (hmode : s.mode.caches = true ∨ s.mode.streams = true) (hlock : Unlocked d s) {data : Bytes}
    (hroom : Room (outlen data.length s) s) :
    exec (cryptInstr d) { s with ibuf := data } = .next (feed Config.env d data (opened d s)) :=
  exec_crypt_of_check_passed hd (cryptCheck_eq_none_of_session (s := { s with ibuf := data }) hmode hlock hroom)

theorem opened_eq_self {d : Direction} {s : State} (hdir : s.dir = d) (hibuf : s.ibuf = []) : opened d s = s := by
  rw [opened, ← hdir, ← hibuf]

/-- Settles O47: all three inputs pass the checks, and feeding in turn is feeding at once. -/
theorem fragmentationDoesNotMatter : Obligations.FragmentationDoesNotMatter := by
  intro d s xs ys hd hinv hlock hroom
  have hmode : s.mode.caches = true ∨ s.mode.streams = true := hroom.imp (·.1) (·.1)
  have hnone : s.mode ≠ .none := (hmode.elim mode_ne_of_caches mode_ne_of_streams).1
  have hsize : 1 ≤ s.blockSize := blockSize_pos_of_inv hinv hnone
  have hle : s.blockSize ≤ 16 := blockSize_le_of_inv hinv
  have hfirst : Room (outlen xs.length s) s :=
    room_of_data (hroom.imp (And.imp_right fun h => Nat.le_trans (by omega) h)
      (And.imp_right fun h => Nat.le_trans (by omega) h))
  have hall : Room (outlen (xs ++ ys).length s) s := by
    rw [List.length_append]
    exact room_of_data (hroom.imp_left (And.imp_right fun h => by rwa [← Nat.add_assoc]))
  have hsecond := room_after_feed (d := d) (s := opened d s) hle hroom
  obtain ⟨hmode1, -, hdir1, hibuf1, -⟩ := feed_keeps d xs (opened d s)
  refine ⟨_, _, exec_crypt_with_input hd hmode hlock hfirst,
    exec_crypt_with_input hd (by rw [hmode1]; exact hmode) (.inr hdir1) hsecond, ?_⟩
  rw [exec_crypt_with_input hd hmode hlock hall, opened_eq_self (d := d) hdir1 hibuf1,
    feed_feed (s := opened d s) hmode hsize]

end

end Sys2Proof.Proofs

/-! Family other, CFB (R230 to R238): one byte with keystream at hand, and one that needs a refill first. Within a
segment the run has a closed form; over segments the shape of KS and FB is kept, every refill is one call, and
decrypting mirrors encrypting byte by byte. The round trips of OFB and CTR follow from their closed forms. -/

namespace Sys2Proof.Proofs

section
open Sys2Proof Sys2Proof.Machine Sys2Proof.Expected

/-! ### One byte of CFB (R230, R236) -/

/-- The ciphertext byte of an input byte `x` and its output byte `y`. -/
def cipherByte (d : Direction) (x y : Byte) : Byte := if d = .decrypting then x else y

/-- The ciphertext of an input and its output. -/
def cipherBytes (d : Direction) (xs ys : Bytes) : Bytes := if d = .decrypting then xs else ys

theorem cipherBytes_cons (d : Direction) (x y : Byte) (xs ys : Bytes) :
    cipherBytes d (x :: xs) (y :: ys) = cipherByte d x y :: cipherBytes d xs ys := by
  cases d <;> rfl

theorem cfbByte_of_ks_cons {s : State} {y : Byte} {k : Bytes} (h : s.ks = y :: k) (d : Direction) (x : Byte) :
    cfbByte Config.env d x s = ([x ^^^ y],
      shiftCfb { s with ks := k, fb := s.fb ++ [cipherByte d x (x ^^^ y)] }) := by
  simp only [cfbByte, streamByte, refillIfEmpty_of_cons h, h, List.headD_cons, List.tail_cons]
  cases d <;> rfl

/-- With no keystream at hand, the byte is the first one after the refill. -/
theorem cfbByte_of_ks_nil {s : State} (h : s.ks = []) (hrefill : (refillCfb Config.env s).ks ≠ []) (d : Direction)
    (x : Byte) : cfbByte Config.env d x s = cfbByte Config.env d x (refillCfb Config.env s) := by
  obtain ⟨y, k, hk⟩ := List.exists_cons_of_ne_nil hrefill
  simp only [cfbByte, streamByte, refillIfEmpty_of_nil h, refillIfEmpty_of_cons hk]

theorem shiftCfb_of_ks_nil {s : State} (h : s.ks = []) :
    shiftCfb s = { s with iv := setblk s.iv ((blk s.iv s.blockSize).drop s.seg ++ s.fb) } := by
  rw [shiftCfb, h]

theorem shiftCfb_of_ks_ne_nil {s : State} (h : s.ks ≠ []) : shiftCfb s = s := by
  obtain ⟨y, k, hk⟩ := List.exists_cons_of_ne_nil h
  rw [shiftCfb, hk]

/-! ### An input within one segment (R235, R236) -/

/-- The running value after n bytes of a segment whose ciphertext is `c`: shifted when no keystream is left. -/
def shiftedIv (s : State) (n : Nat) (c : Bytes) : Block :=
  if n = s.ks.length then setblk s.iv ((blk s.iv s.blockSize).drop s.seg ++ c) else s.iv

theorem runList_cfbByte_within (d : Direction) {data : Bytes} {s : State} (hks : s.ks ≠ [])
    (hlen : data.length ≤ s.ks.length) :
    let c := s.fb ++ cipherBytes d data (xorBytes data s.ks)
    runList (cfbByte Config.env d) data s = (xorBytes data s.ks,
      { s with iv := shiftedIv s data.length c, ks := s.ks.drop data.length, fb := c }) := by
  induction data generalizing s with
  | nil =>
    have hne : ¬ 0 = s.ks.length := fun h => hks (List.length_eq_zero_iff.mp h.symm)
    simp [shiftedIv, hne, cipherBytes]
  | cons x xs ih =>
    obtain ⟨y, k, hk⟩ := List.exists_cons_of_ne_nil hks
    rw [hk, List.length_cons, List.length_cons] at hlen
    rw [runList_cons, cfbByte_of_ks_cons hk]
    cases hrest : k with
    | nil =>
      have hxs : xs = [] := List.length_eq_zero_iff.mp (by rw [hrest] at hlen; simpa using hlen)
      subst hxs hrest
      rw [shiftCfb_of_ks_nil rfl]
      simp [hk, shiftedIv, cipherBytes_cons]
      simp [cipherBytes]
    | cons z k' =>
      have hk' : k ≠ [] := by rw [hrest]; exact List.cons_ne_nil z k'
      rw [← hrest, shiftCfb_of_ks_ne_nil hk', ih hk' (Nat.le_of_succ_le_succ hlen)]
      simp [hk, shiftedIv, cipherBytes_cons]

/-- Feeding an input within the segment at hand. -/
theorem feed_cfb_within {d : Direction} {s : State} (hmode : s.mode = .cfb) (hks : s.ks ≠ []) {data : Bytes}
    (hlen : data.length ≤ s.ks.length) :
    let out := xorBytes data s.ks
    let c := s.fb ++ cipherBytes d data out
    feed Config.env d data s = { s with
      iv := shiftedIv s data.length c
      ks := s.ks.drop data.length
      fb := c
      byteCount := (s.byteCount + data.length) % s.blockSize
      obuf := s.obuf ++ out } := by
  intro out c
  rw [feed_of_streams (fun u hu data => update_of_cfb (hu.trans hmode) d data) (leavesAside_cfbByte Config.env d)
    (cfbByte_frame Config.env d), runList_cfbByte_within d hks hlen]
  rfl

theorem refillCfb_ks_length {s : State} (hsize : s.blockSize ≤ 16) (hseg : s.seg ≤ s.blockSize) :
    (refillCfb Config.env s).ks.length = s.seg := by
  simp only [refillCfb, callE1]
  rw [List.length_take, Config.env.e1_length, blk_length_of_le s.iv hsize, Nat.min_eq_left hseg]

theorem refillCfb_ks_ne_nil {s : State} (hsize : s.blockSize ≤ 16) (hseg : s.seg ≤ s.blockSize) (hpos : 1 ≤ s.seg) :
    (refillCfb Config.env s).ks ≠ [] := by
  intro h
  have hlen := refillCfb_ks_length hsize hseg
  rw [h, List.length_nil] at hlen
  omega

/-- A refill before the first byte that needs it, or at the start: the run is the same. -/
theorem runList_cfbByte_refill {d : Direction} {s : State} (hks : s.ks = [])
    (hrefill : (refillCfb Config.env s).ks ≠ []) {data : Bytes} (hdata : data ≠ []) :
    runList (cfbByte Config.env d) data s = runList (cfbByte Config.env d) data (refillCfb Config.env s) := by
  obtain ⟨x, xs, rfl⟩ := List.exists_cons_of_ne_nil hdata
  rw [runList_cons, runList_cons, cfbByte_of_ks_nil hks hrefill]

theorem exec_cfb_of_feed {d : Direction} {s : State} (hd : Asked d) (hmode : s.mode = .cfb) (hlock : Unlocked d s)
    (hroom : Room s.ibuf.length s) :
    exec (cryptInstr d) s = .next (feed Config.env d s.ibuf (opened d s)) := by
  have hm : s.mode.streams = true := by rw [hmode]; rfl
  rw [exec_crypt_of_check_passed hd (cryptCheck_eq_none_of_streams hm hlock hroom), cryptEffect_eq_feed]

/-- Settles O38: a segment in progress, and one that a refill starts. -/
theorem cfbWithinOneSegment : Obligations.CfbWithinOneSegment := by
  intro d s hd hmode hlock hroom
  rw [exec_cfb_of_feed hd hmode hlock hroom]
  refine ⟨fun hks hlen => ?_, fun hks hpos hlen hseg hsize => ?_⟩
  · rw [feed_cfb_within (s := opened d s) hmode hks hlen]
    rw [afterCfb, List.append_nil]
    rfl
  · have hkslen := refillCfb_ks_length (s := opened d s) hsize hseg
    have hne := refillCfb_ks_ne_nil (s := opened d s) hsize hseg (Nat.le_trans hpos hlen)
    have hdata : s.ibuf ≠ [] := List.ne_nil_of_length_pos hpos
    have hfit : s.ibuf.length ≤ (refillCfb Config.env (opened d s)).ks.length := by rwa [hkslen]
    rw [feed_of_streams (s := opened d s) (fun u hu data => update_of_cfb (hu.trans hmode) d data)
      (leavesAside_cfbByte Config.env d) (cfbByte_frame Config.env d),
      runList_cfbByte_refill (s := opened d s) hks hne hdata,
      runList_cfbByte_within d hne hfit]
    rfl

/-! ### The shape of KS and FB over segments (R55, R57, R58) -/

/-- What a legal CFB session says of its segment (R65). -/
structure CfbShape (s : State) : Prop where
  size : s.blockSize ≤ 16
  segPos : 1 ≤ s.seg
  segLe : s.seg ≤ s.blockSize
  ks : s.ks.length ≤ s.seg
  fb : s.fb.length ≤ s.seg
  fbKs : s.ks ≠ [] → s.fb.length + s.ks.length = s.seg
  fbFull : s.ks = [] → s.fb = [] ∨ s.fb.length = s.seg

theorem cfbShape_of_inv {s : State} (h : s.Inv) (hmode : s.mode = .cfb) : CfbShape s :=
  ⟨blockSize_le_of_inv h, (h.segCfb hmode).1, (h.segCfb hmode).2, h.ksCfb hmode, h.fb hmode, h.fbKs hmode,
    h.fbFull hmode⟩

theorem CfbShape.refill {s : State} (h : CfbShape s) : CfbShape (refillCfb Config.env s) := by
  have hlen := refillCfb_ks_length h.size h.segLe
  exact ⟨h.size, h.segPos, h.segLe, hlen.le, Nat.zero_le _, fun _ => (Nat.zero_add _).trans hlen, fun _ => .inl rfl⟩

theorem CfbShape.refill_ne_nil {s : State} (h : CfbShape s) : (refillCfb Config.env s).ks ≠ [] :=
  refillCfb_ks_ne_nil h.size h.segLe h.segPos

/-- The next byte with keystream at hand: the segment is one byte further, or complete. -/
theorem CfbShape.byte_of_cons {s : State} (h : CfbShape s) {y : Byte} {k : Bytes} (hk : s.ks = y :: k) (d : Direction)
    (x : Byte) : CfbShape (cfbByte Config.env d x s).2 ∧ (cfbByte Config.env d x s).2.ks = k ∧
      (cfbByte Config.env d x s).2.events = s.events := by
  have hsum := h.fbKs (by rw [hk]; exact List.cons_ne_nil y k)
  have hks := h.ks
  rw [hk, List.length_cons] at hsum hks
  have hnext : CfbShape { s with ks := k, fb := s.fb ++ [cipherByte d x (x ^^^ y)] } := by
    refine ⟨h.size, h.segPos, h.segLe, ?_, ?_, fun _ => ?_, fun hnil => .inr ?_⟩
    · exact Nat.le_of_succ_le hks
    · simp only [List.length_append, List.length_singleton]
      omega
    · simp only [List.length_append, List.length_singleton]
      omega
    · rw [show k = [] from hnil, List.length_nil] at hsum
      simp only [List.length_append, List.length_singleton]
      omega
  rw [cfbByte_of_ks_cons hk]
  by_cases hnil : k = []
  · rw [shiftCfb_of_ks_nil hnil]
    exact ⟨⟨hnext.size, hnext.segPos, hnext.segLe, hnext.ks, hnext.fb, hnext.fbKs, hnext.fbFull⟩, rfl, rfl⟩
  · rw [shiftCfb_of_ks_ne_nil hnil]
    exact ⟨hnext, rfl, rfl⟩

theorem cfbByte_session (d : Direction) (x : Byte) (s : State) :
    (cfbByte Config.env d x s).2.mode = s.mode ∧ (cfbByte Config.env d x s).2.blockSize = s.blockSize ∧
      (cfbByte Config.env d x s).2.seg = s.seg :=
  session_of_updateFrame (cfbByte_frame Config.env d x s)

/-- The codebook calls of a CFB byte and of the bytes after it: one for every refill (R231). -/
theorem runList_cfbByte_calls (d : Direction) (data : Bytes) {s : State} (h : CfbShape s) :
    CfbShape (runList (cfbByte Config.env d) data s).2 ∧
      ∃ l, (runList (cfbByte Config.env d) data s).2.events = s.events ++ l ∧
        l.length = callCount data.length s.ks.length s.seg ∧ ∀ e ∈ l, ∃ x, e = .e1 x ∧ x.length = s.blockSize := by
  induction data generalizing s with
  | nil => exact ⟨h, [], by simp⟩
  | cons x xs ih =>
    have hcovered {u : State} (hu : CfbShape u) (hne : u.ks ≠ []) :
        CfbShape (runList (cfbByte Config.env d) (x :: xs) u).2 ∧
          ∃ l, (runList (cfbByte Config.env d) (x :: xs) u).2.events = u.events ++ l ∧
            l.length = callCount (xs.length + 1) u.ks.length u.seg ∧
            ∀ e ∈ l, ∃ x, e = .e1 x ∧ x.length = u.blockSize := by
      obtain ⟨y, k, hk⟩ := List.exists_cons_of_ne_nil hne
      obtain ⟨hshape, hks, hevents⟩ := hu.byte_of_cons hk d x
      obtain ⟨-, hsize, hseg⟩ := cfbByte_session d x u
      obtain ⟨hend, l, hl, hcount, hcalls⟩ := ih hshape
      rw [hks, hseg] at hcount
      rw [hevents] at hl
      rw [hsize] at hcalls
      exact ⟨hend, l, hl, by rw [hcount, hk, List.length_cons, callCount_succ_succ], hcalls⟩
    by_cases hks : s.ks = []
    · obtain ⟨hend, l, hl, hcount, hcalls⟩ := hcovered h.refill h.refill_ne_nil
      rw [runList_cfbByte_refill hks h.refill_ne_nil (List.cons_ne_nil x xs)]
      have hblock : (blk s.iv s.blockSize).length = s.blockSize := blk_length_of_le s.iv h.size
      refine ⟨hend, .e1 (blk s.iv s.blockSize) :: l, by rw [hl]; simp [refillCfb, callE1], ?_, ?_⟩
      · rw [refillCfb_ks_length h.size h.segLe] at hcount
        rw [List.length_cons, hcount, hks, List.length_cons, List.length_nil, callCount_succ_zero _ h.segPos]
        rfl
      · intro e he
        rcases List.mem_cons.mp he with rfl | he
        · exact ⟨_, rfl, hblock⟩
        · exact hcalls e he
    · exact hcovered h hks

/-- Settles O45: CFB call by call, OFB and CTR from their closed forms. -/
theorem streamCallsTheCodebookAsNeeded : Obligations.StreamCallsTheCodebookAsNeeded := by
  intro d s hd hinv hmode hlock hroom
  have hpos : 1 ≤ s.blockSize := blockSize_pos_of_inv hinv (mode_ne_of_streams hmode).1
  have hsize : s.blockSize ≤ 16 := blockSize_le_of_inv hinv
  rcases (streams_iff s.mode).mp hmode with hm | hm | hm
  · have hshape : CfbShape (opened d s) := by
      have h := cfbShape_of_inv hinv hm
      exact ⟨h.size, h.segPos, h.segLe, h.ks, h.fb, h.fbKs, h.fbFull⟩
    obtain ⟨-, l, hl, hcount, hcalls⟩ := runList_cfbByte_calls d s.ibuf hshape
    refine ⟨_, l, exec_cfb_of_feed hd hm hlock hroom, ?_, by rw [if_pos hm]; exact hcount, hcalls⟩
    rw [feed_of_streams (s := opened d s) (fun u hu data => update_of_cfb (hu.trans hm) d data)
      (leavesAside_cfbByte Config.env d) (cfbByte_frame Config.env d)]
    exact hl
  · refine ⟨_, _, ofbXorsTheKeystream d s hd hm hpos hsize hlock hroom, rfl, ?_, ?_⟩
    · rw [List.length_map, List.length_range, hm]
      rfl
    · intro e he
      obtain ⟨j, -, rfl⟩ := List.mem_map.mp he
      exact ⟨_, rfl, (ofbValue_length _ j).trans (blk_length_of_le s.iv hsize)⟩
  · refine ⟨_, _, ctrXorsTheEncryptedCounter d s hd hm hpos hlock hroom, rfl, ?_, ?_⟩
    · rw [List.length_map, List.length_range, hm]
      rfl
    · intro e he
      obtain ⟨j, -, rfl⟩ := List.mem_map.mp he
      exact ⟨_, rfl, counterAt_length s j⟩

/-! ### The round trip of CFB (R238) -/

/-- A decrypting session that follows an encrypting one: the same keystream, ciphertext and running value. -/
structure CfbMirror (u v : State) : Prop where
  shape : CfbShape u
  blockSize : v.blockSize = u.blockSize
  seg : v.seg = u.seg
  ks : v.ks = u.ks
  fb : u.ks ≠ [] → v.fb = u.fb
  iv : blk v.iv u.blockSize = blk u.iv u.blockSize

theorem CfbMirror.refill {u v : State} (h : CfbMirror u v) :
    CfbMirror (refillCfb Config.env u) (refillCfb Config.env v) := by
  refine ⟨h.shape.refill, h.blockSize, h.seg, ?_, fun _ => rfl, h.iv⟩
  simp only [refillCfb, callE1]
  rw [h.blockSize, h.iv, h.seg]

/-- One byte with keystream at hand: decrypting the ciphertext byte gives the byte back and keeps the pace. -/
theorem CfbMirror.byte {u v : State} (h : CfbMirror u v) {k : Byte} {ks : Bytes} (hk : u.ks = k :: ks) (x : Byte) :
    (cfbByte Config.env .encrypting x u).1 = [x ^^^ k] ∧ (cfbByte Config.env .decrypting (x ^^^ k) v).1 = [x] ∧
      CfbMirror (cfbByte Config.env .encrypting x u).2 (cfbByte Config.env .decrypting (x ^^^ k) v).2 := by
  have hkv : v.ks = k :: ks := h.ks.trans hk
  have hfb : v.fb = u.fb := h.fb (by rw [hk]; exact List.cons_ne_nil k ks)
  obtain ⟨hshape, hks, -⟩ := h.shape.byte_of_cons hk .encrypting x
  have hback : x ^^^ k ^^^ k = x := by rw [BitVec.xor_assoc, BitVec.xor_self, BitVec.xor_zero]
  refine ⟨by rw [cfbByte_of_ks_cons hk], by rw [cfbByte_of_ks_cons hkv, hback], ?_⟩
  by_cases hnil : ks = []
  · have hsum := h.shape.fbKs (by rw [hk]; exact List.cons_ne_nil k ks)
    have hseg := h.shape.segLe
    have hsize := h.shape.size
    rw [hk, hnil, List.length_cons, List.length_nil] at hsum
    rw [cfbByte_of_ks_cons hk, shiftCfb_of_ks_nil hnil] at hshape ⊢
    rw [cfbByte_of_ks_cons hkv, shiftCfb_of_ks_nil hnil]
    refine ⟨hshape, h.blockSize, h.seg, rfl, fun hne => absurd hnil hne, ?_⟩
    have hvalue : (blk u.iv u.blockSize).drop u.seg ++ (u.fb ++ [x ^^^ k]) =
        (blk v.iv v.blockSize).drop v.seg ++ (v.fb ++ [x ^^^ k]) := by
      rw [h.blockSize, h.iv, h.seg, hfb]
    have hlen : ((blk u.iv u.blockSize).drop u.seg ++ (u.fb ++ [x ^^^ k])).length = u.blockSize := by
      rw [List.length_append, List.length_drop, blk_length_of_le u.iv hsize, List.length_append, List.length_singleton]
      omega
    have hself (r : Block) := blk_setblk_self r ((blk u.iv u.blockSize).drop u.seg ++ (u.fb ++ [x ^^^ k])) (by omega)
    rw [hlen] at hself
    simp only [cipherByte, reduceCtorEq, if_false, if_true]
    rw [← hvalue, hself, hself]
  · rw [cfbByte_of_ks_cons hk, shiftCfb_of_ks_ne_nil hnil] at hshape ⊢
    rw [cfbByte_of_ks_cons hkv, shiftCfb_of_ks_ne_nil hnil]
    refine ⟨hshape, h.blockSize, h.seg, rfl, fun _ => ?_, h.iv⟩
    simp only [cipherByte, reduceCtorEq, if_false, if_true]
    rw [hfb]

/-- Decrypting what was encrypted gives the input back. -/
theorem CfbMirror.runList {u v : State} (h : CfbMirror u v) (data : Bytes) :
    ∃ c, (runList (cfbByte Config.env .encrypting) data u).1 = c ∧ c.length = data.length ∧
      (runList (cfbByte Config.env .decrypting) c v).1 = data := by
  induction data generalizing u v with
  | nil => exact ⟨[], rfl, rfl, rfl⟩
  | cons x xs ih =>
    have hcovered {u v : State} (h : CfbMirror u v) (hne : u.ks ≠ []) :
        ∃ c, (Machine.runList (cfbByte Config.env .encrypting) (x :: xs) u).1 = c ∧ c.length = (x :: xs).length ∧
          (Machine.runList (cfbByte Config.env .decrypting) c v).1 = x :: xs := by
      obtain ⟨k, ks, hk⟩ := List.exists_cons_of_ne_nil hne
      obtain ⟨henc, hdec, hnext⟩ := h.byte hk x
      obtain ⟨c, hc, hlen, hback⟩ := ih hnext
      refine ⟨(x ^^^ k) :: c, ?_, by rw [List.length_cons, hlen, List.length_cons], ?_⟩
      · rw [runList_cons, henc, hc]
        rfl
      · rw [runList_cons, hdec, hback]
        rfl
    by_cases hks : u.ks = []
    · obtain ⟨c, hc, hlen, hback⟩ := hcovered h.refill h.shape.refill_ne_nil
      have hne : c ≠ [] := List.ne_nil_of_length_pos (by rw [hlen]; exact Nat.succ_pos _)
      have hkv : v.ks = [] := h.ks.trans hks
      have hrefill : (refillCfb Config.env v).ks ≠ [] := by
        rw [h.refill.ks]
        exact h.shape.refill_ne_nil
      refine ⟨c, ?_, hlen, ?_⟩
      · rw [runList_cfbByte_refill hks h.shape.refill_ne_nil (List.cons_ne_nil x xs), hc]
      · rw [runList_cfbByte_refill hkv hrefill hne, hback]
    · exact hcovered h hks

/-! ### The round trips of the stream modes (R238, R241, R246) -/

theorem callCount_covers (n k : Nat) {r : Nat} (hr : 1 ≤ r) : n ≤ k + callCount n k r * r := by
  rw [callCount]
  split
  · omega
  · have hceil := Nat.lt_div_mul_add hr (a := n - k + r - 1)
    omega

/-- XOR with one keystream twice, over the blocks of a session that starts with none at hand. -/
theorem xor_stream_twice {data : Bytes} {block : Nat → Bytes} {bs : Nat} (hbs : 1 ≤ bs)
    (hblock : ∀ j, (block j).length = bs) :
    let stream := (List.range (callCount data.length 0 bs)).flatMap block
    (xorBytes data stream).length = data.length ∧ xorBytes (xorBytes data stream) stream = data := by
  intro stream
  have hlen : stream.length = callCount data.length 0 bs * bs := by
    rw [List.length_flatMap, List.map_congr_left fun j _ => hblock j]
    simp
  have hcover : data.length ≤ stream.length := by
    have h := callCount_covers data.length 0 hbs
    omega
  exact ⟨by rw [xorBytes_length, Nat.min_eq_left hcover], xorBytes_xorBytes data stream hcover⟩

/-- Settles O49: CFB byte by byte; in OFB and CTR both sessions make the same keystream. -/
theorem streamModesRoundTrip : Obligations.StreamModesRoundTrip := by
  intro s r hs hr hmode hdir hks hroom hrmode hrsize hrseg hrdir hrks hiv hctr hrroom
  have hpos : 1 ≤ s.blockSize := blockSize_pos_of_inv hs (mode_ne_of_streams hmode).1
  have hsize : s.blockSize ≤ 16 := blockSize_le_of_inv hs
  have hroomC {c : Bytes} (hc : c.length = s.ibuf.length) : Room ({ r with ibuf := c } : State).ibuf.length
      { r with ibuf := c } := by
    rw [show ({ r with ibuf := c } : State).ibuf.length = s.ibuf.length from hc]
    exact hrroom
  rcases (streams_iff s.mode).mp hmode with hm | hm | hm
  · have hmirror : CfbMirror (opened .encrypting s) (opened .decrypting r) := by
      have h := cfbShape_of_inv hs hm
      exact ⟨⟨h.size, h.segPos, h.segLe, h.ks, h.fb, h.fbKs, h.fbFull⟩, hrsize, hrseg, hrks.trans hks.symm,
        fun hne => absurd hks hne, hiv⟩
    obtain ⟨c, hc, hlen, hback⟩ := hmirror.runList s.ibuf
    refine ⟨_, c, _, exec_cfb_of_feed (d := .encrypting) (.inl rfl) hm (.inl hdir) hroom, ?_, hlen,
      exec_cfb_of_feed (d := .decrypting) (s := { r with ibuf := c }) (.inr rfl) (hrmode.trans hm) (.inl hrdir)
        (hroomC hlen), ?_⟩
    · rw [feed_of_streams (s := opened .encrypting s) (fun u hu data => update_of_cfb (hu.trans hm) _ data)
        (leavesAside_cfbByte Config.env .encrypting) (cfbByte_frame Config.env .encrypting), ← hc]
      rfl
    · rw [feed_of_streams (s := opened .decrypting { r with ibuf := c })
        (fun u hu data => update_of_cfb (hu.trans (hrmode.trans hm)) _ data)
        (leavesAside_cfbByte Config.env .decrypting) (cfbByte_frame Config.env .decrypting)]
      exact congrArg _ hback
  · obtain ⟨hlen, hback⟩ := xor_stream_twice (data := s.ibuf) hpos
      (block := fun j => ofbValue (blk s.iv s.blockSize) (j + 1))
      (fun j => (ofbValue_length _ (j + 1)).trans (blk_length_of_le s.iv hsize))
    refine ⟨_, _, _, ofbXorsTheKeystream .encrypting s (.inl rfl) hm hpos hsize (.inl hdir) hroom, rfl, ?_,
      ofbXorsTheKeystream .decrypting { r with ibuf := _ } (.inr rfl) (hrmode.trans hm) (hrsize ▸ hpos)
        (hrsize ▸ hsize) (.inl hrdir) (hroomC ?_), ?_⟩
    · rw [hks]
      exact hlen
    · rw [hks]
      exact hlen
    · simp only [afterOfb, hks, hrks, hrsize, hiv, List.nil_append, List.length_nil, hlen, hback]
  · obtain ⟨hlen, hback⟩ := xor_stream_twice (data := s.ibuf) hpos
      (block := fun j => Config.env.e1 (counterAt s j))
      (fun j => (Config.env.e1_length _).trans (counterAt_length s j))
    have hcounter (c : Bytes) (j : Nat) : counterAt { r with ibuf := c } j = counterAt s j := by
      simp only [counterAt, hctr, hrsize]
    refine ⟨_, _, _, ctrXorsTheEncryptedCounter .encrypting s (.inl rfl) hm hpos (.inl hdir) hroom, rfl, ?_,
      ctrXorsTheEncryptedCounter .decrypting { r with ibuf := _ } (.inr rfl) (hrmode.trans hm) (hrsize ▸ hpos)
        (.inl hrdir) (hroomC ?_), ?_⟩
    · rw [hks]
      exact hlen
    · rw [hks]
      exact hlen
    · simp only [afterCtr, hcounter]
      simp only [hks, hrks, hrsize, List.nil_append, List.length_nil, hlen, hback]

end

end Sys2Proof.Proofs

/-! Family other, XTS (R262 to R269). The running tweak before block q is T0 times 2^q, so the loop is followed block by
block as in ECB; ciphertext stealing is the last two calls. Both inputs have one closed form, from which follow the
influence of TWEAK and the round trip. -/

namespace Sys2Proof.Proofs

section
open Sys2Proof Sys2Proof.Machine Sys2Proof.Expected

/-! ### The tweak (R262, R264) -/

theorem tweakBlock_eq_tweakBytes (s : State) : tweakBlock s = tweakBytes s := by
  have hpad : 16 - min s.tweakLen.toNat 16 = 16 - s.tweakLen.toNat := by omega
  rw [tweakBlock, tweakBytes, tweakLength, blk, blk, zeros, List.take_take, hpad]

theorem tweakAt_zero (s : State) : tweakAt s 0 = firstTweak Config.env s := by
  rw [firstTweak, tweakBlock_eq_tweakBytes]
  exact gf2pow128mul_one _

theorem xtime128_tweakAt (s : State) (q : Nat) : xtime128 (tweakAt s q) = tweakAt s (q + 1) := by
  rw [xtime128_eq_mul_two, tweakAt, tweakAt, gf2pow128powof2_succ, gf2pow128mul_assoc]

theorem tweakAt_congr {s u : State} (h : tweakBytes u = tweakBytes s) (q : Nat) : tweakAt u q = tweakAt s q := by
  rw [tweakAt, tweakAt, h]

/-! ### One block (R265) -/

theorem xtsBlock_eq {d : Direction} (hd : Asked d) (t : Block) (x : Bytes) (s : State) :
    xtsBlock Config.env d t x s = (xtsOutput d t x, s.log (codebookCall d (xtsInput t x))) := by
  rw [xtsBlock, callCb1_eq_codebook hd]
  rfl

theorem xtsOutput_length {d : Direction} (hd : Asked d) (t : Block) {x : Bytes} (hx : x.length = 16) :
    (xtsOutput d t x).length = 16 := by
  have hin : (xtsInput t x).length = 16 := by rw [xtsInput, xorBytes_length, int2le_length, hx, Nat.min_self]
  have hout : (codebook d (xtsInput t x)).length = (xtsInput t x).length := by
    rcases hd with rfl | rfl
    · exact Config.env.e1_length _
    · exact Environment.d1_length Config.env _
  rw [xtsOutput, xorBytes_length, int2le_length, hout, hin, Nat.min_self]

/-- Decrypting a block under the same tweak gives it back. -/
theorem xtsOutput_decrypting_encrypting (t : Block) {x : Bytes} (hx : x.length = 16) :
    xtsOutput .decrypting t (xtsOutput .encrypting t x) = x := by
  have hmask (y : Bytes) (hy : y.length = 16) : xtsInput t (xorBytes y (int2le t.toNat 16)) = y :=
    xorBytes_xorBytes y _ (by rw [int2le_length, hy])
  have hin : (xtsInput t x).length = 16 := by rw [xtsInput, xorBytes_length, int2le_length, hx, Nat.min_self]
  have hundo : codebook .decrypting (xtsInput t (xtsOutput .encrypting t x)) = xtsInput t x := by
    have hback : xtsInput t (xtsOutput .encrypting t x) = Config.env.e1 (xtsInput t x) :=
      hmask _ ((Config.env.e1_length _).trans hin)
    rw [hback]
    exact Config.env.d1_e1 _
  rw [xtsOutput, hundo]
  exact hmask x hx

/-! ### The loop over the blocks (R266) -/

/-- The session of an ENC or DEC before block q: the direction set, IBUF taken, the tweak block encrypted, T at the
tweak of the block; the blocks before q have made their calls. -/
def beforeXtsBlock (d : Direction) (s : State) (q : Nat) : State :=
  { s with
    dir := d
    ibuf := []
    t := tweakAt s q
    events := s.events ++ .e2 (tweakBytes s) ::
      (List.range q).map fun q => codebookCall d (xtsInput (tweakAt s q) (blockAt 16 s.ibuf q)) }

theorem xtsRound_beforeXtsBlock {d : Direction} (hd : Asked d) (s : State) (q : Nat) :
    xtsRound Config.env d (blockAt 16 s.ibuf q) (beforeXtsBlock d s q) =
      (xtsOutput d (tweakAt s q) (blockAt 16 s.ibuf q), beforeXtsBlock d s (q + 1)) := by
  rw [xtsRound, xtsBlock_eq hd]
  simp [beforeXtsBlock, State.log, List.range_succ, xtime128_tweakAt]

theorem runList_xtsRound {d : Direction} (hd : Asked d) (s : State) (n : Nat) :
    runList (xtsRound Config.env d) (chunks 16 n s.ibuf) (beforeXtsBlock d s 0) =
      ((List.range n).flatMap fun q => xtsOutput d (tweakAt s q) (blockAt 16 s.ibuf q), beforeXtsBlock d s n) := by
  rw [chunks_eq_map_blockAt]
  exact runList_eq_of_rounds fun q _ => xtsRound_beforeXtsBlock hd s q

/-- The stolen tail (R266): the last two calls, from the tweak of the last full block. -/
theorem xtsSteal_beforeXtsBlock {d : Direction} (hd : Asked d) (s : State) (q : Nat) (x1 x2 : Bytes) :
    let ta := if d = .decrypting then tweakAt s (q + 1) else tweakAt s q
    let tb := if d = .decrypting then tweakAt s q else tweakAt s (q + 1)
    let pp := xtsOutput d ta x1
    let cc := x2 ++ pp.drop x2.length
    xtsSteal Config.env d x1 x2 (beforeXtsBlock d s q) = (xtsOutput d tb cc ++ pp.take x2.length,
      { beforeXtsBlock d s q with
        t := tweakAt s (q + 1)
        events := (beforeXtsBlock d s q).events ++
          [codebookCall d (xtsInput ta x1), codebookCall d (xtsInput tb cc)] }) := by
  have ht : (beforeXtsBlock d s q).t = tweakAt s q := rfl
  rcases hd with rfl | rfl
  · simp only [xtsSteal, xtsBlock_eq (d := .encrypting) (.inl rfl), ht, xtime128_tweakAt, State.log]
    simp
  · simp only [xtsSteal, xtsBlock_eq (d := .decrypting) (.inr rfl), ht, xtime128_tweakAt, State.log]
    simp

/-! ### ENC and DEC (R202, R266) -/

theorem update_of_xts {s : State} (hmode : s.mode = .xts) (d : Direction) (data : Bytes) :
    update Config.env d data s = updateXts Config.env d data s := by
  rw [update, hmode]

/-- The tweak is made first, by one call of E2 (R262). -/
theorem openXts_eq (d : Direction) (s : State) :
    { (opened d s).log (.e2 (tweakBytes s)) with t := firstTweak Config.env s } = beforeXtsBlock d s 0 := by
  rw [beforeXtsBlock, tweakAt_zero]
  rfl

/-- The state after a successful ENC or DEC in XTS. -/
def afterXts (d : Direction) (s : State) : State :=
  if s.ibuf.length % 16 = 0 then afterXtsWhole d s else afterXtsSteal d s

theorem exec_xts_of_check_passed {d : Direction} {s : State} (hd : Asked d) (hmode : s.mode = .xts)
    (hcheck : cryptCheck d s = none) : exec (cryptInstr d) s = .next (afterXts d s) := by
  have hlong := ((cryptCheck_eq_none_iff d s).mp hcheck).2.2.2.1 hmode
  have hcall : callE2 Config.env (tweakBlock (opened d s)) (opened d s) =
      (Config.env.e2 (tweakBytes s), (opened d s).log (.e2 (tweakBytes s))) := by
    rw [tweakBlock_eq_tweakBytes]
    rfl
  have hstart : { (opened d s).log (.e2 (tweakBytes s)) with
      t := BitVec.ofNat 128 (le2int (Config.env.e2 (tweakBytes s))) } = beforeXtsBlock d s 0 := by
    rw [← openXts_eq, firstTweak, tweakBlock_eq_tweakBytes]
  rw [exec_crypt_of_check_passed hd hcheck, cryptEffect_eq_feed, feed, update_of_xts (s := opened d s) hmode, updateXts,
    hcall, hstart, afterXts]
  by_cases htail : s.ibuf.length % 16 = 0
  · rw [if_pos htail, if_pos htail, runList_xtsRound hd]
    rfl
  · have hm : s.ibuf.length / 16 - 1 + 1 = s.ibuf.length / 16 := by omega
    have htaillen : (s.ibuf.drop (16 * (s.ibuf.length / 16))).length = s.ibuf.length % 16 := by
      rw [List.length_drop]
      omega
    have hlast : blockAt 16 s.ibuf (s.ibuf.length / 16) = s.ibuf.drop (16 * (s.ibuf.length / 16)) := by
      rw [blockAt, List.take_of_length_le (by rw [htaillen]; omega)]
    rw [if_neg htail, if_neg htail, runList_xtsRound hd]
    simp only [xtsSteal_beforeXtsBlock hd, hm, htaillen, afterXtsSteal, hlast]
    simp [beforeXtsBlock, blockAt]

theorem exec_xts {d : Direction} {s : State} (hd : Asked d) (hmode : s.mode = .xts) (hlock : Unlocked d s)
    (hshort : 16 ≤ s.ibuf.length) (hlong : s.ibuf.length < s.xtsMax.toNat) (hroom : Room s.ibuf.length s) :
    exec (cryptInstr d) s = .next (afterXts d s) := by
  refine exec_xts_of_check_passed hd hmode
    ((cryptCheck_eq_none_iff d s).mpr ⟨?_, ?_, hlock, fun _ => ⟨hshort, hlong⟩, ?_⟩)
  · rw [hmode]
    decide
  · rw [hmode]
    exact fun h => absurd h.1 (by decide)
  · rwa [outlen, hmode]

/-- Settles O39: no tail. -/
theorem xtsMasksEachBlock : Obligations.XtsMasksEachBlock := by
  intro d s hd hmode hlock hshort hlong hwhole hroom
  rw [exec_xts hd hmode hlock hshort hlong hroom, afterXts, if_pos hwhole]

/-- Settles O40: a tail. -/
theorem xtsStealsCiphertext : Obligations.XtsStealsCiphertext := by
  intro d s hd hmode hlock hshort hlong htail hroom
  rw [exec_xts hd hmode hlock hshort hlong hroom, afterXts, if_neg htail]

/-! ### What of TWEAK matters (R262) -/

theorem tweakBytes_with_tweak {s : State} {x : Block}
    (h : blk x (min s.tweakLen.toNat 16) = blk s.tweak (min s.tweakLen.toNat 16)) :
    tweakBytes { s with tweak := x } = tweakBytes s := by
  rw [← tweakBlock_eq_tweakBytes, ← tweakBlock_eq_tweakBytes]
  exact congrArg (· ++ _) h

/-- Settles O41: a failing check does not read TWEAK, and the closed form reads it by its tweak block. -/
theorem tweakBytesBeyondLengthAreIgnored : Obligations.TweakBytesBeyondLengthAreIgnored := by
  intro d s s' x hd hmode hx h
  have hbytes := tweakBytes_with_tweak hx
  have hchecks : cryptCheck d { s with tweak := x } = cryptCheck d s := rfl
  cases hcheck : cryptCheck d s with
  | none =>
    rw [exec_xts_of_check_passed hd hmode hcheck] at h
    cases h
    rw [exec_xts_of_check_passed (s := { s with tweak := x }) hd hmode (hchecks.trans hcheck), afterXts, afterXts]
    simp only [afterXtsWhole, afterXtsSteal, tweakAt_congr hbytes, hbytes]
    split <;> rfl
  | some k =>
    rw [exec_cryptInstr hd, crypt, hcheck, checked, latch_eq_ite] at h
    rw [exec_cryptInstr hd, crypt, hchecks, hcheck, checked, latch_eq_ite]
    cases h
    split <;> rfl

/-! ### Strings made of blocks -/

section
variable {bs n : Nat} {out : Nat → Bytes} (h : ∀ i < n, (out i).length = bs)
include h

theorem length_flatMap_blocks : ((List.range n).flatMap out).length = bs * n := by
  rw [List.length_flatMap, List.map_congr_left fun i hi => h i (List.mem_range.mp hi)]
  simp [Nat.mul_comm]

/-- Block i of a string that starts with blocks of the same size. -/
theorem blockAt_flatMap {i : Nat} (hi : i < n) (rest : Bytes) :
    blockAt bs ((List.range n).flatMap out ++ rest) i = out i := by
  have hprefix : ((List.range i).flatMap out).length = bs * i :=
    length_flatMap_blocks fun j hj => h j (Nat.lt_trans hj hi)
  have hsplit : (List.range n).flatMap out = (List.range i).flatMap out ++
      (out i ++ (List.range (n - i - 1)).flatMap fun j => out (i + (1 + j))) := by
    rw [show n = i + (1 + (n - i - 1)) by omega, List.range_add, List.flatMap_append, List.flatMap_map, List.range_add,
      List.flatMap_append, List.flatMap_map]
    simp
  rw [blockAt, hsplit, List.append_assoc, List.drop_left' hprefix, List.append_assoc, List.take_left' (h i hi)]

theorem drop_flatMap_blocks (rest : Bytes) : ((List.range n).flatMap out ++ rest).drop (bs * n) = rest :=
  List.drop_left' (length_flatMap_blocks h)

end

theorem flatMap_blockAt (bs n : Nat) (buf : Bytes) :
    (List.range n).flatMap (blockAt bs buf) = buf.take (bs * n) := by
  induction n with
  | zero => simp
  | succ n ih =>
    rw [List.range_succ, List.flatMap_append, ih, List.flatMap_singleton, blockAt, Nat.mul_succ, List.take_add]

/-! ### The round trip (R269) -/

/-- The output of an ENC or DEC in XTS. -/
def xtsBytes (d : Direction) (s : State) : Bytes :=
  let m := s.ibuf.length / 16
  let b := s.ibuf.length % 16
  let block := blockAt 16 s.ibuf
  let blocks := fun n => (List.range n).flatMap fun q => xtsOutput d (tweakAt s q) (block q)
  let ta := if d = .decrypting then tweakAt s m else tweakAt s (m - 1)
  let tb := if d = .decrypting then tweakAt s (m - 1) else tweakAt s m
  let pp := xtsOutput d ta (block (m - 1))
  if b = 0 then blocks m else blocks (m - 1) ++ (xtsOutput d tb (block m ++ pp.drop b) ++ pp.take b)

theorem afterXts_obuf (d : Direction) (s : State) : (afterXts d s).obuf = s.obuf ++ xtsBytes d s := by
  rw [afterXts, xtsBytes]
  split
  · rfl
  · simp [afterXtsSteal]

/-- The blocks before the last full one, or all of them. -/
theorem xtsOutput_blockAt_length {d : Direction} (hd : Asked d) (s : State) {n : Nat} (hn : n ≤ s.ibuf.length / 16) :
    ∀ q < n, (xtsOutput d (tweakAt s q) (blockAt 16 s.ibuf q)).length = 16 :=
  fun _ hq => xtsOutput_length hd _ (blockAt_length (Nat.lt_of_lt_of_le hq hn))

theorem blockAt_tail (bs : Nat) {buf : Bytes} (hbs : 1 ≤ bs) :
    blockAt bs buf (buf.length / bs) = buf.drop (bs * (buf.length / bs)) ∧
      (blockAt bs buf (buf.length / bs)).length = buf.length % bs := by
  have hlen : (buf.drop (bs * (buf.length / bs))).length = buf.length % bs := by
    rw [List.length_drop, Nat.sub_eq_of_eq_add']
    exact (Nat.div_add_mod buf.length bs).symm
  have hfits : (buf.drop (bs * (buf.length / bs))).length ≤ bs := by
    rw [hlen]
    exact (Nat.mod_lt _ hbs).le
  rw [blockAt, List.take_of_length_le hfits]
  exact ⟨rfl, hlen⟩

theorem xtsBytes_length {d : Direction} (hd : Asked d) {s : State} (hshort : 16 ≤ s.ibuf.length) :
    (xtsBytes d s).length = s.ibuf.length := by
  simp only [xtsBytes]
  split
  case isTrue hwhole =>
    rw [length_flatMap_blocks (xtsOutput_blockAt_length hd s le_rfl)]
    omega
  case isFalse htail =>
    have hlast : (blockAt 16 s.ibuf (s.ibuf.length / 16 - 1)).length = 16 := blockAt_length (by omega)
    have hpp (t : Block) := xtsOutput_length hd t hlast
    rw [List.length_append, length_flatMap_blocks (xtsOutput_blockAt_length hd s (Nat.sub_le _ 1)), List.length_append,
      xtsOutput_length hd, List.length_take, hpp]
    · omega
    · rw [List.length_append, (blockAt_tail 16 (by decide)).2, List.length_drop, hpp]
      omega

/-- Decrypting the blocks before the last, or all of them. -/
theorem decrypted_blocks {s r : State} (htweak : tweakBytes r = tweakBytes s) {n : Nat}
    (hn : n ≤ s.ibuf.length / 16) {rest : Bytes}
    (hblocks : r.ibuf = ((List.range n).flatMap fun q =>
      xtsOutput .encrypting (tweakAt s q) (blockAt 16 s.ibuf q)) ++ rest) :
    ((List.range n).flatMap fun q => xtsOutput .decrypting (tweakAt r q) (blockAt 16 r.ibuf q)) =
      s.ibuf.take (16 * n) := by
  rw [← flatMap_blockAt]
  refine List.flatMap_congr fun q hq => ?_
  have hq : q < n := List.mem_range.mp hq
  rw [tweakAt_congr htweak, hblocks,
    blockAt_flatMap (xtsOutput_blockAt_length (.inl rfl) s hn) hq,
    xtsOutput_decrypting_encrypting _ (blockAt_length (Nat.lt_of_lt_of_le hq hn))]

/-- Decrypting exchanges the two tweaks, so the two blocks come back in the other order (R266). -/
theorem stolen_round_trip (t1 t2 : Block) {x tail : Bytes} (hx : x.length = 16) (htail : tail.length ≤ 16) :
    let pp := xtsOutput .encrypting t1 x
    let cc := tail ++ pp.drop tail.length
    let back := xtsOutput .decrypting t2 (xtsOutput .encrypting t2 cc)
    xtsOutput .decrypting t1 (pp.take tail.length ++ back.drop tail.length) ++ back.take tail.length = x ++ tail := by
  intro pp cc back
  have hpp : pp.length = 16 := xtsOutput_length (.inl rfl) t1 hx
  have hcc : cc.length = 16 := by
    rw [List.length_append, List.length_drop, hpp]
    omega
  have hback : back = cc := xtsOutput_decrypting_encrypting t2 hcc
  rw [hback, List.drop_left, List.take_left, List.take_append_drop, xtsOutput_decrypting_encrypting t1 hx]

theorem xtsBytes_round_trip {s r : State} (htweak : tweakBytes r = tweakBytes s) (hshort : 16 ≤ s.ibuf.length)
    (hinput : r.ibuf = xtsBytes .encrypting s) : xtsBytes .decrypting r = s.ibuf := by
  have hlen : r.ibuf.length = s.ibuf.length := by rw [hinput, xtsBytes_length (.inl rfl) hshort]
  by_cases hwhole : s.ibuf.length % 16 = 0
  · have hinput : r.ibuf = ((List.range (s.ibuf.length / 16)).flatMap fun q =>
        xtsOutput .encrypting (tweakAt s q) (blockAt 16 s.ibuf q)) ++ [] := by
      rw [hinput, xtsBytes, if_pos hwhole, List.append_nil]
    rw [xtsBytes, hlen, if_pos hwhole]
    exact (decrypted_blocks htweak le_rfl hinput).trans (List.take_of_length_le (by omega))
  · obtain ⟨m, hm⟩ : ∃ m, s.ibuf.length / 16 = m + 1 := ⟨s.ibuf.length / 16 - 1, by omega⟩
    have hlast : (blockAt 16 s.ibuf m).length = 16 := blockAt_length (by omega)
    obtain ⟨htail, htaillen⟩ := blockAt_tail 16 (buf := s.ibuf) (by decide)
    rw [hm] at htail htaillen
    let pp := xtsOutput .encrypting (tweakAt s m) (blockAt 16 s.ibuf m)
    let x := xtsOutput .encrypting (tweakAt s (m + 1)) (blockAt 16 s.ibuf (m + 1) ++ pp.drop (s.ibuf.length % 16))
    have hx : x.length = 16 := by
      refine xtsOutput_length (.inl rfl) _ ?_
      rw [List.length_append, htaillen, List.length_drop, xtsOutput_length (.inl rfl) _ hlast]
      omega
    have hsplit : r.ibuf = ((List.range m).flatMap fun q =>
        xtsOutput .encrypting (tweakAt s q) (blockAt 16 s.ibuf q)) ++ (x ++ pp.take (s.ibuf.length % 16)) := by
      rw [hinput, xtsBytes, hm, if_neg hwhole]
      rfl
    have hdrop : r.ibuf.drop (16 * m) = x ++ pp.take (s.ibuf.length % 16) := by
      rw [hsplit, drop_flatMap_blocks (xtsOutput_blockAt_length (.inl rfl) s (by omega))]
    have hblock : blockAt 16 r.ibuf m = x := by rw [blockAt, hdrop, List.take_left' hx]
    have hstolen : blockAt 16 r.ibuf (m + 1) = pp.take (s.ibuf.length % 16) := by
      rw [blockAt, Nat.mul_succ, ← List.drop_drop, hdrop, List.drop_left' hx, List.take_of_length_le]
      rw [List.length_take]
      omega
    have hback := stolen_round_trip (tweakAt s m) (tweakAt s (m + 1)) hlast
      (tail := blockAt 16 s.ibuf (m + 1)) (by omega)
    rw [htaillen] at hback
    rw [xtsBytes, hlen, hm, if_neg hwhole]
    simp only [if_true, Nat.add_sub_cancel, hblock, hstolen, tweakAt_congr htweak]
    have hblocks := decrypted_blocks htweak (by omega) hsplit
    simp only [tweakAt_congr htweak] at hblocks
    rw [hblocks, hback, htail, blockAt, ← List.append_assoc, ← List.take_add, ← Nat.mul_succ, List.take_append_drop]

/-- Settles O50: both calls pass the checks, and the bytes come back. -/
theorem xtsRoundTrip : Obligations.XtsRoundTrip := by
  intro s r hmode hdir hshort hlong hroom hrmode hrdir htweak hlenTweak hrlong hrroom
  have hlen : (xtsBytes .encrypting s).length = s.ibuf.length := xtsBytes_length (.inl rfl) hshort
  refine ⟨_, xtsBytes .encrypting s, _, exec_xts (d := .encrypting) (.inl rfl) hmode (.inl hdir) hshort hlong hroom,
    afterXts_obuf .encrypting s, hlen,
    exec_xts (d := .decrypting) (s := { r with ibuf := xtsBytes .encrypting s }) (.inr rfl) hrmode (.inl hrdir)
      ?_ ?_ ?_, ?_⟩
  · exact hlen ▸ hshort
  · exact hlen ▸ hrlong
  · exact hlen ▸ hrroom
  · rw [afterXts_obuf, xtsBytes_round_trip (s := s) ?_ hshort rfl]
    rw [tweakBytes, tweakBytes, htweak, hlenTweak]

end

end Sys2Proof.Proofs

/-! Family other, what ENC and DEC append to OBUF in each mode (R204), and the round trips of ECB and CBC (R212,
R216). -/

namespace Sys2Proof.Proofs

section
open Sys2Proof Sys2Proof.Machine Sys2Proof.Expected

/-! ### The tag of CMAC (R284) -/

theorem cmacChainValue_length {bs : Nat} {data : Bytes} {i : Nat} (hi : i ≤ data.length / bs) :
    (cmacChainValue bs data i).length = bs := by
  induction i with
  | zero => exact List.length_replicate
  | succ i ih =>
    rw [cmacChainValue, Config.env.e1_length, xorBytes_length, blockAt_length hi, ih (Nat.le_of_succ_le hi),
      Nat.min_self]

theorem cmacChained_le (n bs : Nat) : cmacChained n bs ≤ n / bs := Nat.div_le_div_right (Nat.sub_le n 1)

theorem cmacFinalInput_length {s : State} (hpos : 1 ≤ s.blockSize) (hsize : s.blockSize ≤ 16) :
    (cmacFinalInput s).length = s.blockSize := by
  have hchain := cmacChainValue_length (bs := s.blockSize) (cmacChained_le s.ibuf.length s.blockSize)
  have hsubkey (k : Block) : (blk k s.blockSize).length = s.blockSize := blk_length_of_le k hsize
  have hlast : (s.ibuf.drop (s.blockSize * cmacChained s.ibuf.length s.blockSize)).length ≤ s.blockSize := by
    have hmod := Nat.mod_lt (s.ibuf.length - 1) hpos
    have hdiv := Nat.div_add_mod (s.ibuf.length - 1) s.blockSize
    rw [List.length_drop, cmacChained]
    omega
  simp only [cmacFinalInput]
  rw [xorBytes_length, hchain]
  split
  case isTrue hfull => rw [xorBytes_length, hsubkey, hfull, Nat.min_self, Nat.min_self]
  case isFalse hpart =>
    rw [xorBytes_length, hsubkey, List.length_append, List.length_cons, List.length_replicate]
    omega

/-! ### The length of the output (R204) -/

theorem mode_cases (m : Mode) : m = .none ∨ m.caches = true ∨ m.streams = true ∨ m = .xts ∨ m = .cmac := by
  cases m <;> decide

theorem not_streams_of_caches {m : Mode} (h : m.caches = true) : ¬ m.streams = true := by
  rcases (caches_iff m).mp h with rfl | rfl <;> decide

/-- The effect of a command whose answer is known. -/
theorem cryptEffect_eq_of_exec {d : Direction} {s s' : State} (hd : Asked d) (hcheck : cryptCheck d s = none)
    (h : exec (cryptInstr d) s = .next s') : cryptEffect Config.env d s = s' := by
  rw [exec_crypt_of_check_passed hd hcheck] at h
  exact Host.Outcome.next.inj h

theorem cryptEffect_of_xts {d : Direction} {s : State} (hd : Asked d) (hmode : s.mode = .xts)
    (hcheck : cryptCheck d s = none) : cryptEffect Config.env d s = afterXts d s :=
  cryptEffect_eq_of_exec hd hcheck (exec_xts_of_check_passed hd hmode hcheck)

theorem cryptEffect_of_cmac {d : Direction} {s : State} (hd : Asked d) (hmode : s.mode = .cmac) (hpos : 1 ≤ s.blockSize)
    (hcheck : cryptCheck d s = none) : cryptEffect Config.env d s = afterCmac s := by
  obtain ⟨-, hcmac, hlock, -, hroom⟩ := (cryptCheck_eq_none_iff d s).mp hcheck
  have henc : d = .encrypting := hd.resolve_right fun hdec => hcmac ⟨hmode, hdec⟩
  subst henc
  rw [outlen, hmode] at hroom
  exact cryptEffect_eq_of_exec hd hcheck (cmacAppendsTheTag s hmode hlock hpos hroom)

/-- An ENC or DEC that passes its checks appends `outlen` bytes: mode by mode. -/
theorem cryptEffect_obuf {d : Direction} {s : State} (hd : Asked d) (hinv : s.Inv) (hcheck : cryptCheck d s = none) :
    ∃ out, (cryptEffect Config.env d s).obuf = s.obuf ++ out ∧ out.length = outlen s.ibuf.length s := by
  obtain ⟨hnone, -, -, hxts, -⟩ := (cryptCheck_eq_none_iff d s).mp hcheck
  have hsize : s.blockSize ≤ 16 := blockSize_le_of_inv hinv
  rcases mode_cases s.mode with hm | hm | hm | hm | hm
  · exact absurd hm hnone
  · rw [outlen_eq_of_caches hm]
    exact feed_obuf_of_caches (s := opened d s) hm hsize s.ibuf
  · rw [outlen_eq_of_streams hm]
    exact feed_obuf_of_streams (s := opened d s) hm s.ibuf
  · rw [cryptEffect_of_xts hd hm hcheck, outlen, hm]
    exact ⟨_, afterXts_obuf d s, xtsBytes_length hd (hxts hm).1⟩
  · have hpos := blockSize_pos_of_inv hinv hnone
    rw [cryptEffect_of_cmac hd hm hpos hcheck, outlen, hm]
    exact ⟨_, rfl, (Config.env.e1_length _).trans (cmacFinalInput_length hpos hsize)⟩

/-- Settles O44: `outlen` in each mode. -/
theorem outputLengthByMode : Obligations.OutputLengthByMode := by
  intro d s s' hd hinv herr h herr'
  have hcheck := cryptCheck_eq_none_of_no_error hd herr h herr'
  obtain ⟨out, hout, hlen⟩ := cryptEffect_obuf hd hinv hcheck
  rw [cryptEffect_eq_of_exec hd hcheck h] at hout
  refine ⟨out, hout, fun hm => ?_, fun hm => ?_, fun hm => ?_⟩
  · rw [hlen, outlen_eq_of_caches hm]
  · rw [hlen]
    rcases hm with hm | hm
    · exact outlen_eq_of_streams hm _
    · rw [outlen, hm]
  · rw [hlen, outlen, hm]

/-! ### The round trips of ECB and CBC (R212, R216) -/

theorem codebook_decrypting_encrypting (x : Bytes) : codebook .decrypting (codebook .encrypting x) = x :=
  Config.env.d1_e1 x

/-- Before block i, decrypting what was encrypted holds the chaining value of the encryption. -/
theorem cbcPrevious_of_chain {bs n : Nat} {iv buf : Bytes} (hiv : iv.length = bs) (hn : n ≤ buf.length / bs) {i : Nat}
    (hi : i ≤ n) :
    cbcPrevious bs iv ((List.range n).flatMap fun j => cbcChain bs iv buf (j + 1)) i = cbcChain bs iv buf i := by
  cases i with
  | zero => rfl
  | succ i =>
    have h := blockAt_flatMap (out := fun j => cbcChain bs iv buf (j + 1))
      (fun j hj => cbcChain_length hiv (Nat.le_trans hj hn)) (i := i) hi []
    rwa [List.append_nil] at h

/-- One block of CBC, there and back. -/
theorem cbc_block_back {x iv : Bytes} (h : x.length = iv.length) :
    xorBytes (Config.env.d1 (Config.env.e1 (xorBytes x iv))) iv = x := by
  rw [Config.env.d1_e1, xorBytes_xorBytes x iv h.le]

theorem cached_of_empty {s : State} (hcache : s.cache = []) : cached s = s.ibuf := by
  rw [cached, hcache, List.nil_append]

/-- A fresh session whose input is n blocks. -/
theorem cached_of_blocks {s : State} {bs n : Nat} {out : Nat → Bytes} (hcache : s.cache = []) (hsize : s.blockSize = bs)
    (hbs : 1 ≤ bs) (hout : ∀ i < n, (out i).length = bs) (hinput : s.ibuf = (List.range n).flatMap out) :
    cached s = (List.range n).flatMap out ∧ blockCount s = n ∧ ∀ i < n, blockAt bs (cached s) i = out i := by
  have hcached : cached s = (List.range n).flatMap out := (cached_of_empty hcache).trans hinput
  refine ⟨hcached, ?_, fun i hi => ?_⟩
  · rw [blockCount, hcached, length_flatMap_blocks hout, hsize, Nat.mul_div_cancel_left n hbs]
  · have h := blockAt_flatMap hout hi []
    rwa [List.append_nil, ← hcached] at h

/-- Settles O48: the blocks of the output, decrypted, are the blocks of the input. -/
theorem blockModesRoundTrip : Obligations.BlockModesRoundTrip := by
  intro s r hs hr hmode hdir hcache hwhole hroom hrmode hrsize hrdir hrcache hiv hrroom
  have hsize : s.blockSize ≤ 16 := blockSize_le_of_inv hs
  have hpos : 1 ≤ s.blockSize := blockSize_pos_of_inv hs (mode_ne_of_caches hmode).1
  have hcount : s.blockSize * blockCount s = s.ibuf.length := by
    rw [blockCount, cached_of_empty hcache, Nat.mul_div_cancel' (Nat.dvd_of_mod_eq_zero hwhole)]
  have hinput : (List.range (blockCount s)).flatMap (blockAt s.blockSize (cached s)) = s.ibuf := by
    rw [flatMap_blockAt, hcount, cached_of_empty hcache, List.take_length]
  have hblock {i : Nat} (hi : i < blockCount s) : (blockAt s.blockSize (cached s) i).length = s.blockSize :=
    blockAt_length hi
  rw [← hcount] at hroom hrroom
  rcases (caches_iff s.mode).mp hmode with hm | hm
  · let out := fun i => codebook .encrypting (blockAt s.blockSize (cached s) i)
    have hout : ∀ i < blockCount s, (out i).length = s.blockSize :=
      fun i hi => (Config.env.e1_length _).trans (hblock hi)
    let u : State := { r with ibuf := (List.range (blockCount s)).flatMap out }
    obtain ⟨hcached, hn, hback⟩ := cached_of_blocks (s := u) hrcache hrsize hpos hout rfl
    have hroomU : Room (u.blockSize * blockCount u) u := by rwa [hn, show u.blockSize = s.blockSize from hrsize]
    refine ⟨_, _, _, ecbProcessesEachFullBlock .encrypting s (.inl rfl) hm (.inl hdir) hroom, rfl,
      (length_flatMap_blocks hout).trans hcount,
      ecbProcessesEachFullBlock .decrypting u (.inr rfl) (hrmode.trans hm) (.inl hrdir) hroomU, ?_⟩
    rw [afterEcb, hn, show u.blockSize = s.blockSize from hrsize]
    refine congrArg (r.obuf ++ ·) (.trans (List.flatMap_congr fun i hi => ?_) hinput)
    rw [hback i (List.mem_range.mp hi), codebook_decrypting_encrypting]
  · let chain := cbcChain s.blockSize (blk s.iv s.blockSize) (cached s)
    have hivlen : (blk s.iv s.blockSize).length = s.blockSize := blk_length_of_le s.iv hsize
    have hchain {i : Nat} (hi : i ≤ blockCount s) : (chain i).length = s.blockSize := cbcChain_length hivlen hi
    let u : State := { r with ibuf := (List.range (blockCount s)).flatMap fun i => chain (i + 1) }
    obtain ⟨hcached, hn, hback⟩ := cached_of_blocks (s := u) hrcache hrsize hpos (fun i hi => hchain hi) rfl
    have hroomU : Room (u.blockSize * blockCount u) u := by rwa [hn, show u.blockSize = s.blockSize from hrsize]
    refine ⟨_, _, _, (cbcChainsEachFullBlock s hm hsize hroom).1 (.inl hdir), rfl,
      (length_flatMap_blocks fun i hi => hchain hi).trans hcount,
      (cbcChainsEachFullBlock u (hrmode.trans hm) (hrsize ▸ hsize) hroomU).2 (.inl hrdir), ?_⟩
    rw [afterCbcDecrypt, hn, show u.blockSize = s.blockSize from hrsize, show u.iv = r.iv from rfl, hiv]
    refine congrArg (r.obuf ++ ·) (.trans (List.flatMap_congr fun i hi => ?_) hinput)
    have hi : i < blockCount s := List.mem_range.mp hi
    have hprevious : cbcPrevious s.blockSize (blk s.iv s.blockSize) (cached u) i = chain i := by
      rw [hcached]
      exact cbcPrevious_of_chain hivlen le_rfl hi.le
    rw [hback i hi, hprevious]
    exact cbc_block_back ((hblock hi).trans (hchain hi.le).symm)

end

end Sys2Proof.Proofs

/-! Family other, padding (R300 to R307) and unpadding on the host (R310 to R316): the padding bytes by the length of
the last block, and the two ways of stripping them. -/

namespace Sys2Proof.Proofs

section
open Sys2Proof Sys2Proof.Machine Sys2Proof.Expected

/-! ### Lengths modulo the block size -/

section
variable {bs : Nat} (hbs : 1 ≤ bs) (n : Nat)
include hbs

/-- The zeros after the 0x80 of bitPadding (R302). -/
theorem bitPadding_zeros : (bs - (n + 1) % bs) % bs = bs - n % bs - 1 := by
  have hr : n % bs < bs := Nat.mod_lt n hbs
  rw [← Nat.mod_add_mod]
  by_cases hlast : n % bs + 1 = bs
  · rw [hlast, Nat.mod_self, Nat.sub_zero, Nat.mod_self]
    omega
  · rw [Nat.mod_eq_of_lt (show n % bs + 1 < bs by omega), Nat.mod_eq_of_lt (by omega), Nat.sub_sub]

/-- The zeros of zerosPadding (R303). -/
theorem zerosPadding_zeros : (bs - n % bs) % bs = if n % bs = 0 then 0 else bs - n % bs := by
  split
  case isTrue hzero => rw [hzero, Nat.sub_zero, Nat.mod_self]
  case isFalse hrest => exact Nat.mod_eq_of_lt (by omega)

theorem add_npad_mod : (n + (bs - n % bs)) % bs = 0 := by
  have hr : n % bs < bs := Nat.mod_lt n hbs
  have hwhole : n + (bs - n % bs) = bs * (n / bs) + bs := by
    have h := Nat.div_add_mod n bs
    omega
  rw [hwhole, ← Nat.mul_succ, Nat.mul_mod_right]

end

/-! ### The padding bytes (R302 to R307) -/

theorem padBytes_fst (p : PadScheme) (n : Nat) {bs : Nat} (hbs : 1 ≤ bs) (s : State) :
    (padBytes Config.env p n bs s).1 = padding p (n % bs) bs s := by
  cases p
  case bitPadding => simp only [padBytes, padding, bitPadding_zeros hbs, zeros]
  case zerosPadding =>
    simp only [padBytes, padding, zerosPadding_zeros hbs, zeros]
    split <;> rfl
  case iso10126 =>
    simp only [padBytes, padding, drawBytes_spec]
    rfl
  all_goals rfl

theorem padLength_eq (p : PadScheme) (n : Nat) {bs : Nat} (hbs : 1 ≤ bs) :
    padLength p n bs = if p = .zerosPadding ∧ n % bs = 0 then 0 else bs - n % bs := by
  cases p
  case bitPadding =>
    have hr : n % bs < bs := Nat.mod_lt n hbs
    rw [padLength, bitPadding_zeros hbs, if_neg (fun h => absurd h.1 (by decide))]
    omega
  case zerosPadding => simp only [padLength, zerosPadding_zeros hbs, true_and]
  all_goals rw [padLength, npad, if_neg (fun h => absurd h.1 (by decide))]

theorem nextDraws_length (n : Nat) (s : State) : (nextDraws n s).length = n := by
  rw [nextDraws, List.length_map, List.length_range]

theorem padding_length (p : PadScheme) {r bs : Nat} (hr : r < bs) (s : State) :
    (padding p r bs s).length = if p = .zerosPadding ∧ r = 0 then 0 else bs - r := by
  cases p
  case zerosPadding =>
    simp only [padding, true_and]
    split <;> simp
  case pkcs7 => simp [padding]
  all_goals
    simp only [padding, List.length_cons, List.length_append, List.length_replicate, nextDraws_length, List.length_nil,
      reduceCtorEq, false_and, if_false]
    omega

/-- Settles O54: the residue decides the padding. -/
theorem paddingCompletesABlock : Obligations.PaddingCompletesABlock := by
  intro p n bs s hbs b
  have hbytes : b = padding p (n % bs) bs s := padBytes_fst p n hbs s
  have hlen : b.length = if p = .zerosPadding ∧ n % bs = 0 then 0 else bs - n % bs := by
    rw [hbytes, padding_length p (Nat.mod_lt n hbs)]
  refine ⟨hbytes, by rw [hlen, padLength_eq p n hbs], ?_, hlen⟩
  rw [hlen]
  split
  case isTrue hzero => exact hzero.2
  case isFalse => exact add_npad_mod hbs n

/-! ### Stripping zeros (R312, R313) -/

theorem stripZeros_append_zeros (d : Bytes) (n : Nat) : stripZeros (d ++ List.replicate n 0) = stripZeros d := by
  rw [stripZeros, List.reverse_append, List.reverse_replicate, List.dropWhile_append_of_pos, stripZeros]
  intro b hb
  rw [List.eq_of_mem_replicate hb]
  rfl

theorem stripZeros_append_singleton (d : Bytes) {b : Byte} (h : b ≠ 0) : stripZeros (d ++ [b]) = d ++ [b] := by
  rw [stripZeros, List.reverse_append, List.reverse_singleton, List.singleton_append,
    List.dropWhile_cons_of_neg (by simpa using h), List.reverse_cons, List.reverse_reverse]

theorem stripZeros_length_le (d : Bytes) : (stripZeros d).length ≤ d.length := by
  rw [stripZeros, List.length_reverse]
  exact (List.length_dropWhile_le _ _).trans (List.length_reverse).le

/-- A string keeps all its bytes exactly when its last one is not 0. -/
theorem stripZeros_eq_self_iff (d : Bytes) : stripZeros d = d ↔ d.getLast? ≠ some 0#8 := by
  rcases List.eq_nil_or_concat d with rfl | ⟨a, b, rfl⟩
  · simp [stripZeros]
  · rw [List.concat_eq_append, List.getLast?_concat, Ne, Option.some_inj]
    refine ⟨fun h hb => ?_, fun hb => stripZeros_append_singleton a hb⟩
    have hstrip : stripZeros (a ++ [b]) = stripZeros a := by
      rw [hb]
      exact stripZeros_append_zeros a 1
    have hlen := stripZeros_length_le a
    rw [← hstrip, h, List.length_append, List.length_singleton] at hlen
    omega

/-! ### Stripping as many bytes as the last one says (R314 to R316) -/

theorem stripCounted_append {ok : Byte → Bytes → Bool} {d body : Bytes} {n k : Nat} (hbody : body.length = n)
    (hk : n + 1 = k) (hsmall : k ≤ 255) (hok : ok (BitVec.ofNat 8 k) body = true) :
    stripCounted ok (d ++ (body ++ [BitVec.ofNat 8 k])) = some d := by
  have hcount : (BitVec.ofNat 8 k).toNat = k := by
    rw [BitVec.toNat_ofNat]
    exact Nat.mod_eq_of_lt (by omega)
  have hne : BitVec.ofNat 8 k ≠ 0 := by
    intro h
    rw [h] at hcount
    exact absurd hcount (by rw [← hk]; exact Nat.noConfusion)
  have hlen : (d ++ (body ++ [BitVec.ofNat 8 k])).length - k = d.length := by
    simp only [List.length_append, List.length_singleton]
    omega
  have hfits : ¬ (d ++ (body ++ [BitVec.ofNat 8 k])).length < k := by
    simp only [List.length_append, List.length_singleton]
    omega
  have hlast : (d ++ (body ++ [BitVec.ofNat 8 k])).getLast? = some (BitVec.ofNat 8 k) := by
    rw [← List.append_assoc, List.getLast?_concat]
  simp only [stripCounted, hlast, hcount, hlen]
  rw [if_neg (not_or.mpr ⟨hne, hfits⟩), List.drop_left, List.dropLast_concat, if_pos hok, List.take_left]

/-! ### Unpad (R312 to R316) -/

theorem pad_fst (p : PadScheme) {bs : Nat} (hbs : 1 ≤ bs) (d : Bytes) (s : State) :
    (pad Config.env p bs d s).1 = d ++ padding p (d.length % bs) bs s := by
  rw [pad, padBytes_fst p _ hbs]

theorem unpad_bitPadding (d : Bytes) (n : Nat) : unpad .bitPadding (d ++ 0x80#8 :: List.replicate n 0) = some d := by
  have hstrip : stripZeros (d ++ 0x80#8 :: List.replicate n 0) = d ++ [0x80#8] := by
    rw [← List.singleton_append, ← List.append_assoc, stripZeros_append_zeros,
      stripZeros_append_singleton d (by decide)]
  simp only [unpad, hstrip, List.getLast?_concat, if_true, List.dropLast_concat]

/-- Settles O55, by scheme. -/
theorem unpadUndoesPad : Obligations.UnpadUndoesPad := by
  intro p bs d s hbs hsmall
  rw [pad_fst p hbs]
  have hr : d.length % bs < bs := Nat.mod_lt _ hbs
  have hcount : bs - d.length % bs - 1 + 1 = bs - d.length % bs := by omega
  have hbound : bs - d.length % bs ≤ 255 := by omega
  refine ⟨fun hp => ?_, fun hp => ?_⟩
  · cases p
    case zerosPadding => exact absurd rfl hp
    case bitPadding => exact unpad_bitPadding d _
    case pkcs7 =>
      rw [unpad, padding, ← hcount, List.replicate_succ', hcount]
      exact stripCounted_append List.length_replicate hcount hbound (by simp)
    case ansiX923 =>
      exact stripCounted_append (ok := fun _ body => body.all (· == 0)) List.length_replicate hcount hbound (by simp)
    case iso10126 => exact stripCounted_append (ok := fun _ _ => true) (nextDraws_length _ s) hcount hbound rfl
  · subst hp
    have hpadding : ∃ n, padding .zerosPadding (d.length % bs) bs s = List.replicate n 0 := by
      rw [padding]
      split
      · exact ⟨0, rfl⟩
      · exact ⟨_, rfl⟩
    obtain ⟨n, hn⟩ := hpadding
    rw [hn, unpad, stripZeros_append_zeros, Option.some_inj, stripZeros_eq_self_iff]

end

end Sys2Proof.Proofs

/-! Family other, FINAL (R317 to R323): its padding bytes are fed to the session as an ENC feeds IBUF, so its output,
its checks and its effect follow from those of ENC. -/

namespace Sys2Proof.Proofs

section
open Sys2Proof Sys2Proof.Machine Sys2Proof.Expected

/-! ### What FINAL pads and appends (R204, R317, R318, R320) -/

theorem machine_finalLength_eq {s : State} (hmode : s.mode.caches = true ∨ s.mode.streams = true) :
    Machine.finalLength s = paddedFrom s := by
  rw [Machine.finalLength, paddedFrom]
  rcases hmode with hm | hm
  · rw [if_pos hm]
    rcases (caches_iff s.mode).mp hm with h | h <;> rw [h]
  · rw [if_neg fun h => not_streams_of_caches h hm]
    rcases (streams_iff s.mode).mp hm with h | h | h <;> rw [h]

theorem paddedFrom_of_caches {s : State} (hmode : s.mode.caches = true) : paddedFrom s = s.cache.length := if_pos hmode

theorem paddedFrom_of_streams {s : State} (hmode : s.mode.streams = true) : paddedFrom s = s.byteCount :=
  if_neg fun h => not_streams_of_caches h hmode

/-- The bytes of FINAL's last block: all of it, or nothing where zerosPadding has nothing to complete. -/
theorem paddedFrom_add_padding (p : PadScheme) {s : State} (hlt : paddedFrom s < s.blockSize) :
    paddedFrom s + (padding p (paddedFrom s) s.blockSize s).length =
      if p = .zerosPadding ∧ paddedFrom s = 0 then 0 else s.blockSize := by
  rw [padding_length p hlt]
  split
  case isTrue hzero => exact hzero.2
  case isFalse => omega

/-- What the update of the padding appends is what the spec gives as FINAL's output. -/
theorem outlen_padding (p : PadScheme) {s : State} (hmode : s.mode.caches = true ∨ s.mode.streams = true)
    (hlt : paddedFrom s < s.blockSize) :
    outlen (padding p (paddedFrom s) s.blockSize s).length s = Expected.finalLength p s := by
  rcases hmode with hm | hm
  · have htotal := paddedFrom_add_padding p hlt
    have houtlen (n : Nat) : outlen n s = s.blockSize * ((paddedFrom s + n) / s.blockSize) := by
      rw [outlen, paddedFrom_of_caches hm]
      rcases (caches_iff s.mode).mp hm with h | h <;> rw [h]
    rw [houtlen, htotal, Expected.finalLength, if_pos hm, paddedFrom_of_caches hm]
    simp only [List.length_eq_zero_iff]
    split
    · simp
    · rw [Nat.div_self (by omega), Nat.mul_one]
  · rw [outlen_eq_of_streams hm, Expected.finalLength, if_neg fun h => not_streams_of_caches h hm]

/-! ### The draws (R306) -/

theorem padBytes_snd (p : PadScheme) {r : Nat} (s : State) (hr : r < s.blockSize) :
    (padBytes Config.env p r s.blockSize s).2 = drawn p r s := by
  cases p
  case iso10126 =>
    simp only [padBytes, drawn, drawCount, drawBytes_spec, npad, Nat.mod_eq_of_lt hr, nextDraws, List.map_map]
    rfl
  all_goals simp [padBytes, drawn, drawCount, nextDraws]

theorem padBytes_eq (p : PadScheme) {r : Nat} (s : State) (hr : r < s.blockSize) :
    padBytes Config.env p r s.blockSize s = (padding p r s.blockSize s, drawn p r s) := by
  refine Prod.ext ?_ (padBytes_snd p s hr)
  rw [padBytes_fst p r (Nat.zero_lt_of_lt hr), Nat.mod_eq_of_lt hr]

/-! ### The checks (R317, R321, R336) -/

theorem finalLegal_iff (m : Mode) : finalLegal m = true ↔ m.caches = true ∨ m.streams = true := by
  cases m <;> decide

/-- The state after the padding is fed to the session, IBUF kept. -/
def fedPadding (p : PadScheme) (s : State) : State :=
  feed Config.env .encrypting (padding p (paddedFrom s) s.blockSize s) (drawn p (paddedFrom s) s)

section
variable {p : PadScheme} {s : State} (hmode : s.mode.caches = true ∨ s.mode.streams = true)
  (hlt : paddedFrom s < s.blockSize)
include hmode hlt

theorem finalSpace_eq : finalSpace p s =
    if s.ports.obufCap < s.obuf.length + Expected.finalLength p s then some .bufferOverflow else none := by
  have hlen : padLength p (Machine.finalLength s) s.blockSize = (padding p (paddedFrom s) s.blockSize s).length := by
    rw [machine_finalLength_eq hmode, padLength_eq p _ (Nat.zero_lt_of_lt hlt), padding_length p hlt,
      Nat.mod_eq_of_lt hlt]
  rw [finalSpace, hlen, outlen_padding p hmode hlt]

theorem finalEffect_eq : finalEffect Config.env p s = fedPadding p s := by
  rw [finalEffect, machine_finalLength_eq hmode, padBytes_eq p s hlt]
  rfl

theorem exec_final_of_room (hdir : s.dir = .encrypting) (hroom : Room (Expected.finalLength p s) s) :
    exec (finalInstr p) s = .next (fedPadding p s) := by
  rw [exec_finalInstr, final, if_pos ((finalLegal_iff _).mpr hmode), hdir, finalSpace_eq hmode hlt,
    if_neg (Nat.not_lt_of_le hroom)]
  exact congrArg _ (finalEffect_eq hmode hlt)

theorem exec_final_of_full (hdir : s.dir = .encrypting) (herr : s.err = none)
    (hfull : ¬ Room (Expected.finalLength p s) s) :
    exec (finalInstr p) s = .next (failed .bufferOverflow (encode (finalInstr p)) s) := by
  rw [exec_finalInstr, final, if_pos ((finalLegal_iff _).mpr hmode), hdir, finalSpace_eq hmode hlt,
    if_pos (Nat.lt_of_not_le hfull)]
  refine congrArg _ ?_
  rw [checked, latch_eq_ite, if_pos herr]

end

/-- Settles O51: each check in its turn. -/
theorem finalChecksInOrder : Obligations.FinalChecksInOrder := by
  intro p s fails
  refine ⟨fun herr hmode => ?_, fun hmode hdir => ?_,
    fun herr hdir hlt => ⟨fun hm hpad hfull => ?_, fun hm hfull => ?_⟩⟩
  · have hillegal : ¬ finalLegal s.mode = true := by
      rcases hmode with h | h | h <;> rw [h] <;> decide
    simp only [fails]
    rw [exec_finalInstr, final, if_neg hillegal, latch_eq_ite, if_pos herr]
  · rcases final_spec Config.env p (encode (finalInstr p)) s with
      ⟨hillegal, -⟩ | ⟨-, -, h⟩ | ⟨-, henc, -⟩ | ⟨-, henc, -⟩
    · rw [(finalLegal_iff _).mpr hmode] at hillegal
      cases hillegal
    · rw [exec_finalInstr, h]
    · exact absurd henc hdir
    · exact absurd henc hdir
  · have hne : ¬ (p = .zerosPadding ∧ s.cache = []) := by
      rintro ⟨rfl, hcache⟩
      rw [paddedFrom_of_caches hm, hcache] at hpad
      exact hpad rfl
    refine exec_final_of_full (.inl hm) hlt hdir herr ?_
    rwa [Expected.finalLength, if_pos hm, if_neg hne]
  · refine exec_final_of_full (.inr hm) hlt hdir herr ?_
    rwa [Expected.finalLength, if_neg fun h => not_streams_of_caches h hm]

/-! ### One block of padding (R318) -/

/-- Feeding what completes the block in CACHE is one round. -/
theorem feed_one_block {d : Direction} {s : State} {f : Bytes → State → Bytes × State}
    (hupdate : ∀ u, u.mode = s.mode → ∀ data, update Config.env d data u = cacheUpdate f data u)
    (hf : LeavesAside f) (hsize : 1 ≤ s.blockSize) {data : Bytes} (hlen : (s.cache ++ data).length = s.blockSize) :
    feed Config.env d data s =
      aside s.ibuf (s.obuf ++ (f (s.cache ++ data) s).1) [] s.byteCount (f (s.cache ++ data) s).2 := by
  have hone : (s.cache ++ data).length / s.blockSize = 1 := by rw [hlen, Nat.div_self hsize]
  have hblock : chunks s.blockSize 1 (s.cache ++ data) = [s.cache ++ data] := by
    rw [chunks, chunks, List.take_of_length_le hlen.le]
  rw [feed_of_caches hupdate hf, hone, Nat.one_mul, hblock, List.drop_of_length_le hlen.le, runList_cons, runList_nil,
    List.append_nil]

/-- Settles O52: ECB and CBC, one round each. -/
theorem finalPadsTheCachedBlock : Obligations.FinalPadsTheCachedBlock := by
  intro p s hm hdir hlt hsize hroom
  rw [← paddedFrom_of_caches hm] at hlt
  have hpos : 1 ≤ s.blockSize := Nat.zero_lt_of_lt hlt
  rw [exec_final_of_room (.inl hm) hlt hdir hroom, fedPadding, paddedFrom_of_caches hm]
  have htotal := paddedFrom_add_padding p hlt
  rw [paddedFrom_of_caches hm] at hlt htotal
  refine congrArg _ ?_
  by_cases hzero : p = .zerosPadding ∧ s.cache = []
  · obtain ⟨rfl, hcache⟩ := hzero
    have hdrawn : drawn .zerosPadding s.cache.length s = s := by simp [drawn, drawCount, nextDraws]
    have hpadding : padding .zerosPadding s.cache.length s.blockSize s = [] := by rw [padding, hcache]; rfl
    rw [if_pos ⟨rfl, hcache⟩, hdrawn, hpadding]
    exact feed_nil (.inl hm) (fun _ => hlt) fun h => absurd h (not_streams_of_caches hm)
  · rw [if_neg (fun h => hzero ⟨h.1, List.length_eq_zero_iff.mp h.2⟩), ← List.length_append] at htotal
    rw [if_neg hzero]
    rcases (caches_iff s.mode).mp hm with h | h
    · rw [feed_one_block (s := drawn p s.cache.length s) (f := callCb1 Config.env .encrypting)
        (fun u hu data => update_of_ecb (hu.trans h) _ data) (leavesAside_callCb1 Config.env _) hpos htotal]
      simp only [afterFinalBlock, h]
      rfl
    · rw [feed_one_block (s := drawn p s.cache.length s) (f := cbcEncryptBlock Config.env)
        (fun u hu data => update_of_cbc_encrypting (hu.trans h) data) (leavesAside_cbcEncryptBlock Config.env) hpos
        htotal]
      simp only [afterFinalBlock, h]
      rfl

/-! ### FINAL as an ENC of the padding (R323) -/

/-- An update neither reads nor writes IBUF. -/
theorem feed_with_ibuf {s : State} (hmode : s.mode.caches = true ∨ s.mode.streams = true) (d : Direction)
    (data ibuf : Bytes) :
    feed Config.env d data { s with ibuf := ibuf } = { feed Config.env d data s with ibuf := ibuf } := by
  rcases hmode with hm | hm
  · obtain ⟨f, hf, -, -, hupdate⟩ := update_of_caches hm d
    have hrun (l : List Bytes) : runList f l { s with ibuf := ibuf } = _ :=
      hf.runList l ibuf s.obuf s.cache s.byteCount s
    rw [feed_of_caches (s := { s with ibuf := ibuf }) hupdate hf, feed_of_caches hupdate hf, hrun]
    rfl
  · obtain ⟨f, hf, hframe, -, hupdate⟩ := update_of_streams hm d
    have hrun : runList f data { s with ibuf := ibuf } = _ := hf.runList data ibuf s.obuf s.cache s.byteCount s
    rw [feed_of_streams (s := { s with ibuf := ibuf }) hupdate hf hframe, feed_of_streams hupdate hf hframe, hrun]
    rfl

theorem feed_byteCount_of_streams {d : Direction} {s : State} (hmode : s.mode.streams = true) (data : Bytes) :
    (feed Config.env d data s).byteCount = (s.byteCount + data.length) % s.blockSize := by
  obtain ⟨f, hf, hframe, -, hupdate⟩ := update_of_streams hmode d
  rw [feed_of_streams hupdate hf hframe]
  rfl

theorem feed_cache_of_streams {d : Direction} {s : State} (hmode : s.mode.streams = true) (data : Bytes) :
    (feed Config.env d data s).cache = s.cache := by
  obtain ⟨f, hf, hframe, -, hupdate⟩ := update_of_streams hmode d
  rw [feed_of_streams hupdate hf hframe]
  rfl

theorem feed_byteCount_of_caches {d : Direction} {s : State} (hmode : s.mode.caches = true) (data : Bytes) :
    (feed Config.env d data s).byteCount = s.byteCount := by
  obtain ⟨f, hf, -, -, hupdate⟩ := update_of_caches hmode d
  rw [feed_of_caches hupdate hf]
  rfl

theorem paddedFrom_lt_of_inv {s : State} (hinv : s.Inv) (hmode : s.mode.caches = true ∨ s.mode.streams = true) :
    paddedFrom s < s.blockSize := by
  rcases hmode with hm | hm
  · rw [paddedFrom_of_caches hm]
    exact hinv.cache hm
  · rw [paddedFrom_of_streams hm]
    exact hinv.byteCount hm

/-- The session that ENC of the padding feeds is FINAL's, IBUF apart. -/
theorem cryptEffect_paddingAsInput {p : PadScheme} {s : State} (hmode : s.mode.caches = true ∨ s.mode.streams = true)
    (hdir : s.dir = .encrypting) :
    cryptEffect Config.env .encrypting (paddingAsInput p s) = { fedPadding p s with ibuf := [] } := by
  have hopen : opened .encrypting (paddingAsInput p s) = { drawn p (paddedFrom s) s with ibuf := [] } := by
    rw [opened, paddingAsInput, ← hdir]
    rfl
  rw [cryptEffect_eq_feed, hopen, feed_with_ibuf (s := drawn p (paddedFrom s) s) hmode]
  rfl

theorem exec_enc_paddingAsInput {p : PadScheme} {s : State} (hmode : s.mode.caches = true ∨ s.mode.streams = true)
    (hlt : paddedFrom s < s.blockSize) (hdir : s.dir = .encrypting) (hroom : Room (Expected.finalLength p s) s) :
    exec .enc (paddingAsInput p s) = .next { fedPadding p s with ibuf := [] } := by
  rw [← cryptEffect_paddingAsInput hmode hdir]
  refine exec_crypt_of_check_passed (d := .encrypting) (.inl rfl)
    (cryptCheck_eq_none_of_session (s := paddingAsInput p s) hmode (.inr hdir) ?_)
  have hout := outlen_padding p hmode hlt
  exact hout.symm ▸ hroom

/-- What FINAL leaves: the block complete, and its output appended. -/
theorem fedPadding_spec (p : PadScheme) {s : State} (hinv : s.Inv)
    (hmode : s.mode.caches = true ∨ s.mode.streams = true) :
    (fedPadding p s).cache = [] ∧ (fedPadding p s).byteCount = 0 ∧ (fedPadding p s).err = s.err ∧
      ∃ out, (fedPadding p s).obuf = s.obuf ++ out ∧ out.length = Expected.finalLength p s := by
  have hlt := paddedFrom_lt_of_inv hinv hmode
  have hsize : s.blockSize ≤ 16 := blockSize_le_of_inv hinv
  have htotal := paddedFrom_add_padding p hlt
  have hout := outlen_padding p hmode hlt
  have herr : (fedPadding p s).err = s.err := by
    obtain ⟨_, _, _, _, _, _, _, _, _, h⟩ :=
      feed_frame Config.env .encrypting (padding p (paddedFrom s) s.blockSize s) (drawn p (paddedFrom s) s)
    rw [fedPadding, h]
    rfl
  have hwhole : (paddedFrom s + (padding p (paddedFrom s) s.blockSize s).length) % s.blockSize = 0 := by
    rw [htotal]
    split <;> simp
  rcases hmode with hm | hm
  · obtain ⟨out, hobuf, hlen⟩ := feed_obuf_of_caches (d := .encrypting) (s := drawn p (paddedFrom s) s) hm hsize
      (padding p (paddedFrom s) s.blockSize s)
    have hcache : (fedPadding p s).cache = [] := by
      rw [fedPadding, feed_cache_of_caches (s := drawn p (paddedFrom s) s) hm]
      refine List.drop_of_length_le ?_
      rw [paddedFrom_of_caches hm, ← List.length_append] at hwhole
      have h := Nat.div_mul_cancel (Nat.dvd_of_mod_eq_zero hwhole)
      rw [← paddedFrom_of_caches hm] at h
      exact h.ge
    refine ⟨hcache, ?_, herr, out, hobuf, ?_⟩
    · rw [fedPadding, feed_byteCount_of_caches (s := drawn p (paddedFrom s) s) hm]
      exact hinv.byteCountElse (by simpa using not_streams_of_caches hm)
    · rw [← hout, hlen, outlen]
      rcases (caches_iff s.mode).mp hm with h | h <;> rw [h] <;> simp [drawn]
  · obtain ⟨out, hobuf, hlen⟩ := feed_obuf_of_streams (d := .encrypting) (s := drawn p (paddedFrom s) s) hm
      (padding p (paddedFrom s) s.blockSize s)
    refine ⟨?_, ?_, herr, out, hobuf, ?_⟩
    · rw [fedPadding, feed_cache_of_streams (s := drawn p (paddedFrom s) s) hm]
      exact hinv.cacheElse (by simpa using fun h => not_streams_of_caches h hm)
    · rw [fedPadding, feed_byteCount_of_streams (s := drawn p (paddedFrom s) s) hm]
      rw [paddedFrom_of_streams hm] at hwhole ⊢
      exact hwhole
    · rw [hlen, ← hout, outlen_eq_of_streams hm]

/-- Settles O53: both feed the padding to one session. -/
theorem finalIsAnEncOfThePadding : Obligations.FinalIsAnEncOfThePadding := by
  intro p s hinv hmode hdir hroom
  have hlt := paddedFrom_lt_of_inv hinv hmode
  obtain ⟨hcache, hcount, herr, hout⟩ := fedPadding_spec p hinv hmode
  have hibuf : (fedPadding p s).ibuf = s.ibuf := (feed_keeps _ _ (drawn p (paddedFrom s) s)).2.2.2.1
  refine ⟨_, exec_enc_paddingAsInput hmode hlt hdir hroom, ?_, hcache, hcount, herr, hout⟩
  rw [exec_final_of_room hmode hlt hdir hroom, ← hibuf]

end

end Sys2Proof.Proofs

/-! Family other, what every step keeps of a legal state (R65). INIT makes a legal session; ENC and DEC keep it legal
mode by mode, from what the rounds do; FINAL is an ENC of its padding. -/

namespace Sys2Proof.Proofs

section
open Sys2Proof Sys2Proof.Machine Sys2Proof.Expected

/-! ### The parts of the state that are free, or apart (R65.7, R65.8) -/

section
variable {s : State} (h : s.Inv)
include h

/-- The registers that the host writes, GFR and what lies outside the unit may be anything. -/
theorem inv_with_free (iv ctr tweak gfa gfb gfr : Block) (ivLen tweakLen : BitVec 5) (ctrSet : Bool) (xtsMax gfn : Word)
    (host : List HostEvent) (replies : List Word) (events : List Event) (draws : Nat) :
    State.Inv { s with
      iv := iv, ctr := ctr, tweak := tweak, gfa := gfa, gfb := gfb, gfr := gfr, ivLen := ivLen, tweakLen := tweakLen,
      ctrSet := ctrSet, xtsMax := xtsMax, gfn := gfn, host := host, replies := replies, events := events,
      draws := draws } :=
  { h with }

theorem inv_with_queues {ibuf obuf : Bytes} (hibuf : ibuf.length ≤ s.ports.ibufCap)
    (hobuf : obuf.length ≤ s.ports.obufCap) : State.Inv { s with ibuf := ibuf, obuf := obuf } :=
  { h with ibuf := hibuf, obuf := hobuf }

theorem inv_with_latch {err : Option ErrorKind} {errcmd : Word} (hnone : err = none → errcmd = 0)
    (hkind : err ≠ some .paddingError) : State.Inv { s with err := err, errcmd := errcmd } :=
  { h with errcmd := hnone, noPaddingError := hkind }

theorem inv_failed {k : ErrorKind} (hkind : k ≠ .paddingError) (w : Word) : (failed k w s).Inv :=
  inv_with_latch h (fun hnone => nomatch hnone) fun hsome => hkind (Option.some.inj hsome)

theorem inv_latch {k : ErrorKind} (hkind : k ≠ .paddingError) (w : Word) : (latch k w s).Inv := by
  rw [latch_eq_ite]
  split
  · exact inv_failed h hkind w
  · exact h

theorem inv_taken : (taken s).Inv :=
  inv_with_free h s.iv s.ctr s.tweak s.gfa s.gfb s.gfr s.ivLen s.tweakLen s.ctrSet s.xtsMax s.gfn s.host.tail s.replies
    s.events s.draws

theorem inv_writeSlot {slot : Slot} (hslot : slot ≠ .din) (v : Word) : (writeSlot slot v s).Inv := by
  obtain ⟨iv, ctr, tweak, gfa, gfb, ivLen, tweakLen, ctrSet, xtsMax, gfn, hw⟩ := writeSlot_frame hslot v s
  rw [hw]
  exact inv_with_free h iv ctr tweak gfa gfb s.gfr ivLen tweakLen ctrSet xtsMax gfn s.host s.replies s.events s.draws

theorem inv_pushDin (v : Word) : (pushDin v s).Inv := by
  rw [pushDin_eq_ite]
  split
  case isTrue hroom =>
    refine inv_with_queues h (obuf := s.obuf) ?_ h.obuf
    rwa [List.length_append, List.length_singleton]
  case isFalse =>
    split
    · exact inv_failed h (by decide) _
    · exact h

theorem inv_resetUnit : (resetUnit s).Inv :=
  { resetStateIsLegal with
    ports := h.ports, session := fun hmode => absurd rfl hmode, ibuf := Nat.zero_le _, obuf := Nat.zero_le _ }

end

theorem mayLatch_ne_paddingError {i : Instr} {k : ErrorKind} (h : mayLatch i k) : k ≠ .paddingError := by
  rintro rfl
  cases i <;> simp [mayLatch] at h

/-! ### INIT (R180, R181, R188) -/

/-- What the INIT of a mode leaves is legal, whatever legal segment and subkeys it adds. -/
theorem inv_newSession {s : State} (h : s.Inv) {m : Mode} (hnone : m ≠ .none)
    (hcmac : m = .cmac → s.ports.bs1 = 8 ∨ s.ports.bs1 = 16) (hxts : m = .xts → s.ports.bs1 = 16) {seg : Nat}
    (hcfb : m = .cfb → 1 ≤ seg ∧ seg ≤ s.ports.bs1) (hseg : m ≠ .cfb → seg = 0) {k1 k2 : Block}
    (hkeys : m ≠ .cmac → k1 = 0 ∧ k2 = 0)
    (htails : m = .cmac → (blk k1 16).drop s.ports.bs1 = zeros (16 - s.ports.bs1) ∧
      (blk k2 16).drop s.ports.bs1 = zeros (16 - s.ports.bs1)) (events : List Event) :
    State.Inv { newSession m s with seg := seg, subk1 := k1, subk2 := k2, events := events } where
  ports := h.ports
  idle hm := absurd hm hnone
  session _ := rfl
  cmac := hcmac
  xts := hxts
  segCfb := hcfb
  segElse := hseg
  cache _ := h.ports.1
  cacheElse _ := rfl
  ks _ := Nat.zero_le _
  ksCfb _ := Nat.zero_le _
  ksElse _ := rfl
  fb _ := Nat.zero_le _
  fbKs _ hks := absurd rfl hks
  fbFull _ _ := .inl rfl
  fbElse _ := rfl
  byteCount _ := h.ports.1
  byteCountElse _ := rfl
  aligned _ := Nat.zero_mod _
  ibuf := h.ibuf
  obuf := h.obuf
  errcmd := h.errcmd
  noPaddingError := h.noPaddingError
  tweakElement _ := rfl
  subkeys := hkeys
  subkeyTails := htails

/-- A subkey is left-aligned in its register (R282). -/
theorem subkey_tail {x : Bytes} {bs : Nat} (hx : x.length = bs) (hbs : bs ≤ 16) :
    (blk (ofBytes (x ++ zeros (16 - bs))) 16).drop bs = zeros (16 - bs) := by
  rw [blk_ofBytes _ (by rw [List.length_append, zeros_length]; omega), List.drop_left' hx]

theorem dblBlock_length {b : Bytes} {bs : Nat} (hbs : bs = 8 ∨ bs = 16) (h : b.length = bs) :
    (dblBlock b).length = bs := by
  rcases hbs with rfl | rfl
  · rw [dblBlock_eight h, int2be_length]
  · rw [dblBlock_sixteen h, int2be_length]

theorem bs1_of_initCheck_cmac {s : State} (h : initCheck .cmac s = none) : s.ports.bs1 = 8 ∨ s.ports.bs1 = 16 := by
  rw [initCheck_of_cmac] at h
  split_ifs at h
  omega

theorem bs1_of_initCheck_xts {s : State} (h : initCheck .xts s = none) : s.ports.bs1 = 16 := by
  rw [initCheck_of_xts] at h
  split_ifs at h
  omega

theorem inv_init {s : State} (h : s.Inv) {i : Instr} {m : Mode} (hm : initMode i = some m)
    (hwf : wellFormed s.ports.bs1 i = true) (hcheck : initCheck m s = none) : (initOwn i (startSession m s)).Inv := by
  have hplain (hnone : m ≠ .none) (hcfb : m ≠ .cfb) (hcmac : m ≠ .cmac)
      (hxts : m = .xts → s.ports.bs1 = 16) : (startSession m s).Inv :=
    inv_newSession h hnone (fun hm => absurd hm hcmac) hxts (fun hm => absurd hm hcfb) (fun _ => rfl)
      (fun _ => ⟨rfl, rfl⟩) (fun hm => absurd hm hcmac) s.events
  cases i <;> cases hm
  case initCfb seg =>
    have hfits : seg.toNat ≤ s.ports.bs1 := by simpa [wellFormed] using hwf
    have hseg : 1 ≤ segmentSize seg s.ports.bs1 ∧ segmentSize seg s.ports.bs1 ≤ s.ports.bs1 := by
      rw [segmentSize]
      split
      case isTrue => exact ⟨h.ports.1, le_rfl⟩
      case isFalse hne =>
        refine ⟨Nat.pos_of_ne_zero fun hzero => hne ?_, hfits⟩
        exact BitVec.eq_of_toNat_eq hzero
    exact inv_newSession h (m := .cfb) (by decide) nofun nofun (fun _ => hseg) (fun hm => absurd rfl hm)
      (fun _ => ⟨rfl, rfl⟩) nofun s.events
  case initCmac =>
    have hbs := bs1_of_initCheck_cmac hcheck
    have hl : (Config.env.e1 (zeros s.ports.bs1)).length = s.ports.bs1 := by rw [Config.env.e1_length, zeros_length]
    have hlu := dblBlock_length hbs hl
    have hlu2 := dblBlock_length hbs hlu
    have hle := h.ports.2.1
    exact inv_newSession h (m := .cmac) (by decide) (fun _ => hbs) nofun nofun (fun _ => rfl)
      (fun hm => absurd rfl hm) (fun _ => ⟨subkey_tail hlu hle, subkey_tail hlu2 hle⟩) _
  case initXts => exact hplain (by decide) (by decide) (by decide) fun _ => bs1_of_initCheck_xts hcheck
  all_goals exact hplain (by decide) (by decide) (by decide) nofun

/-! ### ENC and DEC, mode by mode (R56 to R59, R320) -/

section
variable {d : Direction} {s : State} (h : s.Inv) {obuf : Bytes} (hobuf : obuf.length ≤ s.ports.obufCap)
include h hobuf

/-- ECB and CBC: what stays in CACHE makes no block. -/
theorem inv_cached (hmode : s.mode.caches = true) (iv : Block) (events : List Event) :
    State.Inv { s with dir := d, ibuf := [], cache := cacheRest s, iv := iv, obuf := obuf, events := events } := by
  have hnone := (mode_ne_of_caches hmode).1
  have hrest : (cacheRest s).length < s.blockSize := by
    rw [cacheRest, List.length_drop, blockCount, ← Nat.mod_eq_sub_mul_div]
    exact Nat.mod_lt _ (blockSize_pos_of_inv h hnone)
  exact { h with
    idle := fun hm => absurd hm hnone
    ibuf := Nat.zero_le _
    obuf := hobuf
    cache := fun _ => hrest
    cacheElse := fun hm => by rw [hmode] at hm; cases hm }

/-- OFB and CTR: the keystream ends with the last refill, and stays aligned with BYTECOUNT. -/
theorem inv_keystream (hmode : s.mode = .ofb ∨ s.mode = .ctr) {n : Nat} {fresh : Bytes}
    (hfresh : fresh.length = s.blockSize * callCount n s.ks.length s.blockSize) (iv ctr : Block) (events : List Event) :
    State.Inv { s with
      dir := d, ibuf := [], iv := iv, ctr := ctr, ks := (s.ks ++ fresh).drop n,
      byteCount := (s.byteCount + n) % s.blockSize, obuf := obuf, events := events } := by
  have hstream : s.mode.streams = true := (streams_iff _).mpr (.inr hmode)
  have hnone := (mode_ne_of_streams hstream).1
  have hcfb : s.mode ≠ .cfb := by rcases hmode with hm | hm <;> rw [hm] <;> decide
  have hpos : 1 ≤ s.blockSize := blockSize_pos_of_inv h hnone
  have hcover := callCount_covers n s.ks.length hpos
  have hlen : ((s.ks ++ fresh).drop n).length =
      s.ks.length + s.blockSize * callCount n s.ks.length s.blockSize - n := by
    rw [List.length_drop, List.length_append, hfresh]
  have hks : ((s.ks ++ fresh).drop n).length ≤ s.blockSize := by
    have hold := h.ks hstream
    rw [hlen, callCount]
    split
    · omega
    · have hceil := Nat.mul_div_le (n - s.ks.length + s.blockSize - 1) s.blockSize
      omega
  have haligned : ((s.byteCount + n) % s.blockSize + ((s.ks ++ fresh).drop n).length) % s.blockSize = 0 := by
    have hsum : s.byteCount + n + ((s.ks ++ fresh).drop n).length =
        s.byteCount + s.ks.length + s.blockSize * callCount n s.ks.length s.blockSize := by
      rw [Nat.mul_comm] at hcover
      omega
    rw [Nat.mod_add_mod, hsum, Nat.add_mul_mod_self_left]
    exact h.aligned hmode
  exact { h with
    idle := fun hm => absurd hm hnone
    ibuf := Nat.zero_le _
    obuf := hobuf
    ks := fun _ => hks
    ksCfb := fun hm => absurd hm hcfb
    ksElse := fun hm => by rw [hstream] at hm; cases hm
    fbKs := fun hm => absurd hm hcfb
    fbFull := fun hm => absurd hm hcfb
    byteCount := fun _ => Nat.mod_lt _ hpos
    byteCountElse := fun hm => by rw [hstream] at hm; cases hm
    aligned := fun _ => haligned }

/-- CFB: KS and FB keep their shape, and BYTECOUNT is taken modulo BLOCKSIZE. -/
theorem inv_cfb (hmode : s.mode = .cfb) {ks fb : Bytes} (hshape : CfbShape { s with ks := ks, fb := fb })
    (iv : Block) (n : Nat) (events : List Event) :
    State.Inv { s with
      dir := d, ibuf := [], iv := iv, ks := ks, fb := fb, byteCount := n % s.blockSize, obuf := obuf,
      events := events } := by
  have hne : s.mode ≠ .none ∧ s.mode ≠ .ofb ∧ s.mode ≠ .ctr ∧ ¬ s.mode.streams = false := by rw [hmode]; decide
  obtain ⟨hnone, hofb, hctr, hstream⟩ := hne
  exact { h with
    idle := fun hm => absurd hm hnone
    ibuf := Nat.zero_le _
    obuf := hobuf
    ks := fun _ => hshape.ks.trans hshape.segLe
    ksCfb := fun _ => hshape.ks
    ksElse := fun hm => absurd hm hstream
    fb := fun _ => hshape.fb
    fbKs := fun _ => hshape.fbKs
    fbFull := fun _ => hshape.fbFull
    fbElse := fun hm => absurd hmode hm
    byteCount := fun _ => Nat.mod_lt _ (blockSize_pos_of_inv h hnone)
    byteCountElse := fun hm => absurd hm hstream
    aligned := fun hm => absurd hm (not_or.mpr ⟨hofb, hctr⟩) }

/-- XTS and CMAC: the update keeps nothing but T, and that in XTS only. -/
theorem inv_whole_message (hmode : s.mode = .xts ∨ s.mode = .cmac) {t : Block} (ht : s.mode ≠ .xts → t = 0)
    (events : List Event) :
    State.Inv { s with dir := d, ibuf := [], t := t, obuf := obuf, events := events } := by
  have hnone : s.mode ≠ .none := by rcases hmode with hm | hm <;> rw [hm] <;> decide
  exact { h with
    idle := fun hm => absurd hm hnone
    ibuf := Nat.zero_le _
    obuf := hobuf
    tweakElement := ht }

end

/-- CFB, from the shape that its rounds keep. -/
theorem inv_feed_cfb {d : Direction} {s : State} (h : s.Inv) (hmode : s.mode = .cfb)
    (hobuf : (feed Config.env d s.ibuf (opened d s)).obuf.length ≤ s.ports.obufCap) :
    (feed Config.env d s.ibuf (opened d s)).Inv := by
  have hshape : CfbShape (opened d s) := by
    have h := cfbShape_of_inv h hmode
    exact ⟨h.size, h.segPos, h.segLe, h.ks, h.fb, h.fbKs, h.fbFull⟩
  have hend := (runList_cfbByte_calls d s.ibuf hshape).1
  have hupdated := UpdatedIn.runList (cfbByte_updatedIn Config.env d) s.ibuf (opened d s)
  have hctr : (runList (cfbByte Config.env d) s.ibuf (opened d s)).2.ctr = s.ctr := hupdated.ctr (by decide)
  have ht : (runList (cfbByte Config.env d) s.ibuf (opened d s)).2.t = s.t := hupdated.t (by decide)
  obtain ⟨iv, ctr, t, cache, ks, fb, n, l, -, hrun⟩ := hupdated.exists_frame
  rw [feed_of_streams (s := opened d s) (fun u hu data => update_of_cfb (hu.trans hmode) d data)
    (leavesAside_cfbByte Config.env d) (cfbByte_frame Config.env d)] at hobuf ⊢
  rw [hrun] at hend hobuf hctr ht ⊢
  obtain rfl : ctr = s.ctr := hctr
  obtain rfl : t = s.t := ht
  exact inv_cfb (d := d) h hobuf hmode
    ⟨hend.size, hend.segPos, hend.segLe, hend.ks, hend.fb, hend.fbKs, hend.fbFull⟩ iv _ _

/-- An ENC or DEC that passes its checks keeps a legal session legal. -/
theorem inv_cryptEffect {d : Direction} {s : State} (hd : Asked d) (h : s.Inv) (hcheck : cryptCheck d s = none) :
    (cryptEffect Config.env d s).Inv := by
  obtain ⟨hnone, -, hlock, -, hroom⟩ := (cryptCheck_eq_none_iff d s).mp hcheck
  have hsize : s.blockSize ≤ 16 := blockSize_le_of_inv h
  have hpos : 1 ≤ s.blockSize := blockSize_pos_of_inv h hnone
  have hobuf : (cryptEffect Config.env d s).obuf.length ≤ s.ports.obufCap := by
    obtain ⟨out, hout, hlen⟩ := cryptEffect_obuf hd h hcheck
    rw [hout, List.length_append, hlen]
    exact hroom
  rcases mode_cases s.mode with hm | hm | hm | hm | hm
  · exact absurd hm hnone
  · rw [outlen_eq_of_caches hm] at hroom
    rcases (caches_iff s.mode).mp hm with hmode | hmode
    · rw [cryptEffect_eq_of_exec hd hcheck (ecbProcessesEachFullBlock d s hd hmode hlock hroom)] at hobuf ⊢
      exact inv_cached h hobuf hm s.iv _
    · obtain ⟨henc, hdec⟩ := cbcChainsEachFullBlock s hmode hsize hroom
      rcases hd with rfl | rfl
      · rw [cryptEffect_eq_of_exec (.inl rfl) hcheck (henc hlock)] at hobuf ⊢
        exact inv_cached h hobuf hm _ _
      · rw [cryptEffect_eq_of_exec (.inr rfl) hcheck (hdec hlock)] at hobuf ⊢
        exact inv_cached h hobuf hm _ _
  · rw [outlen_eq_of_streams hm] at hroom
    rcases (streams_iff s.mode).mp hm with hmode | hmode | hmode
    · exact inv_feed_cfb h hmode hobuf
    · rw [cryptEffect_eq_of_exec hd hcheck (ofbXorsTheKeystream d s hd hmode hpos hsize hlock hroom)] at hobuf ⊢
      exact inv_keystream h hobuf (.inl hmode)
        (length_flatMap_blocks fun j _ => (ofbValue_length _ (j + 1)).trans (blk_length_of_le s.iv hsize)) _ _ _
    · rw [cryptEffect_eq_of_exec hd hcheck (ctrXorsTheEncryptedCounter d s hd hmode hpos hlock hroom)] at hobuf ⊢
      exact inv_keystream h hobuf (.inr hmode)
        (length_flatMap_blocks fun j _ => (Config.env.e1_length _).trans (counterAt_length s j)) _ _ _
  · rw [cryptEffect_of_xts hd hm hcheck, afterXts] at hobuf ⊢
    split_ifs at hobuf ⊢
    · exact inv_whole_message h hobuf (.inl hm) (fun hne => absurd hm hne) _
    · exact inv_whole_message h hobuf (.inl hm) (fun hne => absurd hm hne) _
  · rw [cryptEffect_of_cmac hd hm hpos hcheck] at hobuf ⊢
    exact inv_whole_message h hobuf (.inr hm) h.tweakElement _

/-! ### FINAL (R323) -/

/-- FINAL leaves the session that an ENC of its padding leaves, with IBUF as it was. -/
theorem inv_finalEffect {p : PadScheme} {s : State} (h : s.Inv) (hlegal : finalLegal s.mode = true)
    (hdir : s.dir = .encrypting) (hspace : finalSpace p s = none) : (finalEffect Config.env p s).Inv := by
  have hmode := (finalLegal_iff _).mp hlegal
  have hlt := paddedFrom_lt_of_inv h hmode
  have hroom : Room (Expected.finalLength p s) s := by
    rw [finalSpace_eq hmode hlt] at hspace
    by_contra hfull
    rw [if_pos (Nat.lt_of_not_le hfull)] at hspace
    cases hspace
  have hpadding : (padding p (paddedFrom s) s.blockSize s).length ≤ s.ports.ibufCap := by
    have hlen := paddedFrom_add_padding p hlt
    have hsize : s.blockSize ≤ 16 := blockSize_le_of_inv h
    obtain ⟨-, -, -, -, hcap, -⟩ := h.ports
    split_ifs at hlen <;> omega
  have hinput : (paddingAsInput p s).Inv := { h with ibuf := hpadding }
  have hcheck : cryptCheck .encrypting (paddingAsInput p s) = none :=
    cryptCheck_eq_none_of_session (s := paddingAsInput p s) hmode (.inr hdir)
      ((outlen_padding p hmode hlt).symm ▸ hroom)
  have hfed := inv_cryptEffect (.inl rfl) hinput hcheck
  rw [cryptEffect_paddingAsInput hmode hdir] at hfed
  obtain ⟨-, -, -, hibuf, hports⟩ := feed_keeps .encrypting (padding p (paddedFrom s) s.blockSize s)
    (drawn p (paddedFrom s) s)
  have hqueue : (fedPadding p s).ibuf.length ≤ (fedPadding p s).ports.ibufCap := by
    rw [fedPadding, hibuf, hports]
    exact h.ibuf
  rw [finalEffect_eq hmode hlt]
  exact inv_with_queues hfed (obuf := (fedPadding p s).obuf) hqueue hfed.obuf

/-! ### A command, and a step -/

theorem inv_effect {s s' : State} {i : Instr} (h : s.Inv) (heffect : Effect s i s') : s'.Inv := by
  cases heffect with
  | init hm hwf hcheck => exact inv_init h hm hwf hcheck
  | crypt hd hcheck => exact inv_cryptEffect hd h hcheck
  | finalNoOp => exact h
  | final p hlegal hdir hspace => exact inv_finalEffect h hlegal hdir hspace
  | gf hi x => exact { h with }
  | nop => exact h
  | clrerr => exact inv_with_latch h (fun _ => rfl) nofun
  | reset => exact inv_resetUnit h
  | flushi => exact inv_with_queues h (Nat.zero_le _) h.obuf
  | flusho => exact inv_with_queues h h.ibuf (Nat.zero_le _)

/-- Settles O28: whatever the step does. -/
theorem stepKeepsLegalStates : Obligations.StepKeepsLegalStates := by
  intro s s' h hstep
  have htaken := inv_taken h
  cases step_effects hstep with
  | idle => exact htaken
  | read _ obuf v hobuf =>
    have hshort : obuf.length ≤ s.ports.obufCap := by
      rcases hobuf with rfl | rfl
      · exact h.obuf
      · exact List.length_tail.trans_le ((Nat.sub_le _ 1).trans h.obuf)
    exact { htaken with obuf := hshort }
  | push => exact inv_pushDin htaken _
  | write _ _ _ hdin =>
    exact inv_writeSlot htaken (slotAt_ne_of_offset rfl hdin) _
  | resetInput => exact inv_resetUnit htaken
  | blocked => exact htaken
  | reserved => exact inv_failed htaken (by decide) _
  | command _ _ hexec =>
    rcases exec_cases hexec with ⟨k, hk, rfl⟩ | heffect
    · exact inv_latch htaken (mayLatch_ne_paddingError hk) _
    · exact inv_effect htaken heffect

end

end Sys2Proof.Proofs
